-- ==== Sys2Proof/Word.lean ====
section
/-! DEFINITION. The word types of the block: its two bit containers, its command word and its two 4-bit fields.
Bit 0 is the least significant bit of each (spec 00_scope.md R12, 20_memory.md R36). All values are unsigned. -/

namespace Sys2Proof

/-- A command word, exactly 32 bits (30_encoding.md R44). -/
abbrev CmdWord := BitVec 32

/-- The wide container, 16 bits: a Codeword (10_state.md R16). -/
abbrev Wide := BitVec 16

/-- The narrow container, 8 bits: a Character (10_state.md R17). -/
abbrev Narrow := BitVec 8

/-- A bit index as the `idx` field carries it, 4 bits, unsigned, unscaled (30_encoding.md R45, R47). -/
abbrev BitIdx := BitVec 4

/-- A syndrome, 4 bits, 0 to 15 (10_state.md R18, 42_corrector.md R85). -/
abbrev Syndrome := BitVec 4

end Sys2Proof
end

