-- ==== Sys2Proof/Machine/BitField.lean ====
section
/-! DEFINITION. The BitField primitives, at any width `n` (the block uses 8 and 16): the only path to bits
(40_bitfield.md R58 to R63). An index is bounded by its type, so out of range has no value (R62). -/

namespace Sys2Proof.Machine

/-- `is_bit_set_N(v, i)` (R58). -/
def isBitSet {n : Nat} (v : BitVec n) (i : Fin n) : Bool := v.getLsbD i.val

/-- `set_bit_N(v, i) = v | (1 << i)` (R59). -/
def setBit {n : Nat} (v : BitVec n) (i : Fin n) : BitVec n := v ||| BitVec.twoPow n i.val

/-- `flip_bit_N(v, i) = v ^ (1 << i)` (R60). -/
def flipBit {n : Nat} (v : BitVec n) (i : Fin n) : BitVec n := v ^^^ BitVec.twoPow n i.val

/-- How many of the bits `0` to `k - 1` are 1. -/
def countBelow {n : Nat} (v : BitVec n) : Nat → Nat
  | 0 => 0
  | k + 1 => countBelow v k + (v.getLsbD k).toNat

/-- `pop_count_N(v) = v[0] + v[1] + ... + v[N-1]` (R61). -/
def popCount {n : Nat} (v : BitVec n) : Nat := countBelow v n

end Sys2Proof.Machine
end

