-- ==== Sys2Proof/Machine/Layout.lean ====
section
/-! DEFINITION. The Codeword layout: the four parity masks and the data-bit table, constants of the system
(41_layout.md R75 to R79, 00_scope.md R8, R9). -/

namespace Sys2Proof.Machine

/-- The four parity bits, each named by its position and weight (41_layout.md R75). A mask exists for these four
and no other (93_implementation_defined.md U4). -/
inductive Parity where
  | p1 | p2 | p4 | p8
  deriving DecidableEq, Repr

/-- The four parity bits in the order the checks are made (42_corrector.md R85). -/
def Parity.all : List Parity := [.p1, .p2, .p4, .p8]

/-- The weight a failing check adds to the syndrome (42_corrector.md R85). -/
def Parity.weight : Parity → Syndrome
  | .p1 => 1#4
  | .p2 => 2#4
  | .p4 => 4#4
  | .p8 => 8#4

/-- The position of the stored parity bit in the codeword: the weight itself (41_layout.md R75). -/
def Parity.position : Parity → Fin 16
  | .p1 => 1
  | .p2 => 2
  | .p4 => 4
  | .p8 => 8

/-- The parity masks `M(p)` (41_layout.md R76). -/
def Parity.mask : Parity → Wide
  | .p1 => 0x0AA8#16
  | .p2 => 0x0CC8#16
  | .p4 => 0x10E0#16
  | .p8 => 0x1E00#16

/-- The table `CHAR_OF`: codeword bit, character bit (41_layout.md R77), ascending (43_extractor.md R94). -/
def charOf : List (Fin 16 × Fin 8) := [(3, 0), (5, 1), (6, 2), (7, 3), (9, 4), (10, 5), (11, 6), (12, 7)]

/-- `data_to_char`, defined on the eight data positions and nowhere else (41_layout.md R77). -/
def dataToChar (b : Fin 16) : Option (Fin 8) := charOf.lookup b

end Sys2Proof.Machine
end

