-- ==== Sys2Proof/Machine/Code.lean ====
section
/-! DEFINITION. The pure functions of the code: the syndrome corrector (42_corrector.md R81 to R87), the character
extractor (43_extractor.md R94), and the document's two entry points (44_interface_ops.md R98, R99), built from the
BitField primitives and the bitwise AND with a mask alone (40_bitfield.md R63). All are total on 16-bit values. -/

namespace Sys2Proof.Machine

/-- `observed(cw, p)`: the parity bit as received (42_corrector.md R82). -/
def observed (cw : Wide) (p : Parity) : Bool := isBitSet cw p.position

/-- `group(cw, p)`: the data bits this parity bit covers (R83). -/
def group (cw : Wide) (p : Parity) : Wide := cw &&& p.mask

/-- `expected(cw, p)`: 1 if the population of the group is odd (R83). -/
def expected (cw : Wide) (p : Parity) : Bool := popCount (group cw p) % 2 == 1

/-- The check for `p` fails (R84). -/
def checkFails (cw : Wide) (p : Parity) : Bool := observed cw p != expected cw p

/-- The accumulator of the loop over the four parity bits, from 0 (R85, R87). -/
def syndrome (cw : Wide) : Syndrome :=
  Parity.all.foldl (fun s p => if checkFails cw p then s + p.weight else s) 0#4

/-- `correct(cw) -> (cw', s)`: the syndrome is the index of the bit that is flipped, and 0 flips nothing
(R86, R87). -/
def correct (cw : Wide) : Wide × Syndrome :=
  let s := syndrome cw
  if s = 0#4 then (cw, s) else (flipBit cw s.toFin, s)

/-- `to_character(cw)`: from an all-zero character, set the bit of each data position that is set
(43_extractor.md R94). -/
def toCharacter (cw : Wide) : Narrow :=
  charOf.foldl (fun c bk => if isBitSet cw bk.1 then setBit c bk.2 else c) 0#8

/-- `decode_one(raw)` (44_interface_ops.md R98). -/
def decodeOne (raw : Wide) : Narrow := toCharacter (correct raw).1

/-- `inspect(raw)` (44_interface_ops.md R99). -/
def inspect (raw : Wide) : Narrow := toCharacter raw

end Sys2Proof.Machine
end

