-- ==== Sys2Proof/Config.lean ====
section
/-! DEFINITION. The values the spec leaves without a value. The block has no other open parameter (00_scope.md R8):
its masks and its table are constants, in Machine/Layout.lean.

DESIGN CHOICE (log entry 1, which says in what one respect it is unsafe). After reset `CW`, `CH` and `SYN` hold
"whatever bits they physically hold" (70_reset_and_hazards.md R125), and a model "must not choose zero for them"
(R127). Each is an opaque function of how many resets have been applied, so nothing can be proved of the bits, nor
that two resets leave the same bits. -/

namespace Sys2Proof

/-- The unspecified bits that `CW` holds after the reset numbered `n` (10_state.md R29). -/
opaque Config.unsetCw (n : Nat) : Wide

/-- The unspecified bits that `CH` holds after the reset numbered `n` (10_state.md R29). -/
opaque Config.unsetCh (n : Nat) : Narrow

/-- The unspecified bits that `SYN` holds after the reset numbered `n` (10_state.md R29). -/
opaque Config.unsetSyn (n : Nat) : Syndrome

end Sys2Proof
end

