-- ==== Sys2Proof/Machine/State.lean ====
section
/-! DEFINITION. The state of one block instance, as plain data: the six items of 10_state.md R15, and beside them
the model's own fields for the host's side of the interface (log entries 1, 2 and 3). There is no program counter,
no memory, no mode and no register file (R21, R22, R24, R26, 20_memory.md R31). -/

namespace Sys2Proof.Machine

/-- The `status` of a response: exactly four values (60_exceptions.md R111; 93_implementation_defined.md U14). -/
inductive Status where
  /-- 0: the command completed. -/
  | ok
  /-- 1: the command word matches no row of the opcode table. -/
  | illegal
  /-- 2: a decoded command names a bit index outside its container or outside the layout table. -/
  | indexRange
  /-- 3: a decoded command would read a register whose valid flag is 0. -/
  | unwritten
  deriving DecidableEq, Repr

/-- The 4-bit code of a status (30_encoding.md R54, 60_exceptions.md R111). -/
def Status.code : Status → BitVec 4
  | .ok => 0#4
  | .illegal => 1#4
  | .indexRange => 2#4
  | .unwritten => 3#4

/-- The response of a command: a status and a 16-bit value (30_encoding.md R54). -/
structure Response where
  status : Status
  value : Wide
  deriving DecidableEq, Repr

/-- What the host does to the block between two steps: present one command word, or apply the reset event
(70_reset_and_hazards.md R125, R136). -/
inductive HostInput where
  | command (word : CmdWord)
  | reset
  deriving DecidableEq, Repr

/-- The state of the block, and the host's side of its interface. -/
structure State where
  /-- `CW`, the codeword register (10_state.md R16). -/
  cw : Wide
  /-- `CH`, the character register (R17). -/
  ch : Narrow
  /-- `SYN`, the syndrome register (R18). -/
  syn : Syndrome
  /-- `VW`: `CW` holds a value written since reset (R19). -/
  vw : Bool
  /-- `VN`: `CH` holds a value written since reset (R19). -/
  vn : Bool
  /-- `VS`: `SYN` holds a value written since reset (R19). -/
  vs : Bool
  /-- The model's own: what the host presents from now on, in order (R22, R26; log entry 2). -/
  inputs : List HostInput
  /-- The model's own: what the last step put out (30_encoding.md R54: "an output of the step, not state";
  log entry 3). No meaning reads it. -/
  response : Option Response
  /-- The model's own: how many reset events have been applied, the counter that the unspecified register
  contents are drawn with (log entry 1). -/
  resets : Nat
  deriving DecidableEq, Repr

/-- Why the machine stops with a fault: never. The spec's three faults end a command and not the machine: the block
goes on to the next command (60_exceptions.md R117, R118), so each is a next state whose response carries the code
(`FaultCode` in Machine/Ops.lean). No constructor, so nobody raises one. -/
inductive Fault
  deriving DecidableEq, Repr

/-- Why the model gives an instruction no meaning. -/
inductive Refusal where
  /-- An instruction without a meaning would be refused so in exec's arm; no arm is, so nobody raises it. Safe. -/
  | notModelled (mnemonic : String)
  deriving DecidableEq, Repr

/-- The state right after reset (10_state.md R29, 70_reset_and_hazards.md R125): the three valid flags are 0; `CW`,
`CH` and `SYN` hold unspecified bits (DESIGN CHOICE: opaque values, log entry 1); the host has presented
nothing (log entry 2) and nothing has been put out (log entry 3). -/
def State.reset : State where
  cw := Config.unsetCw 0
  ch := Config.unsetCh 0
  syn := Config.unsetSyn 0
  vw := false
  vn := false
  vs := false
  inputs := []
  response := none
  resets := 0

end Sys2Proof.Machine
end

