-- ==== Sys2Proof/Machine/Flags.lean ====
section
/-! DEFINITION. The valid flags: `STATUS` as `RDST` reads it, and the three ways a flag goes to 1
(10_state.md R19). No command clears a flag; the reset event in Machine/Ops.lean does. There are no condition codes
(R23). -/

namespace Sys2Proof.Machine

/-- `zext_16({VS, VN, VW})`: `VW` in bit 0, `VN` in bit 1, `VS` in bit 2, bits 15:3 read 0 (10_state.md R19). -/
def statusWord (s : State) : Wide :=
  (BitVec.ofBool s.vs ++ BitVec.ofBool s.vn ++ BitVec.ofBool s.vw : BitVec 3).setWidth 16

/-- `VW <- 1`. -/
def setVw (s : State) : State := { s with vw := true }

/-- `VN <- 1`. -/
def setVn (s : State) : State := { s with vn := true }

/-- `VS <- 1`. -/
def setVs (s : State) : State := { s with vs := true }

end Sys2Proof.Machine
end

