-- ==== Sys2Proof/Machine/Ops.lean ====
section
/-! DEFINITION. The operations shared by every meaning: reading and writing the registers, ending a command
normally, taking a fault, applying the reset event, and the host's port. -/

namespace Sys2Proof.Machine

/-- The three fault codes (60_exceptions.md R111). -/
inductive FaultCode where
  /-- The word matches no row of the opcode table (R112). -/
  | illegal
  /-- The index is outside the container or the layout table (R113). -/
  | indexRange
  /-- The register to be read has its valid flag at 0 (R114). -/
  | unwritten
  deriving DecidableEq, Repr

/-- The status a fault reports (60_exceptions.md R111). -/
def FaultCode.status : FaultCode → Status
  | .illegal => .illegal
  | .indexRange => .indexRange
  | .unwritten => .unwritten

/-- What a command's pseudocode comes to (00_scope.md R13): `raise Fault(code)`, or the registers written and the
16-bit value of `respond`. -/
abbrev Effect := Except FaultCode (State × Wide)

/-- `respond(v)`: the response is status 0 and the value (00_scope.md R13, 30_encoding.md R54). -/
def respond (v : Wide) (s : State) : State := { s with response := some ⟨.ok, v⟩ }

/-- Taking a fault (60_exceptions.md R117): the response carries the code and the value 0, and no architectural
state changes. Nothing is saved and control goes nowhere, so there is no return from it (R118). -/
def raise (f : FaultCode) (s : State) : State := { s with response := some ⟨f.status, 0#16⟩ }

/-- The end of a command started in `s`: all its writes take effect together, or, where it raised, none does
(00_scope.md R13, 20_memory.md R41). -/
def complete (s : State) (e : Effect) : Host.Outcome State Fault Refusal :=
  match e with
  | .ok (t, v) => .next (respond v t)
  | .error f => .next (raise f s)

/-- Read `CW`, or raise `UNWRITTEN` (10_state.md R20). -/
def readCw (s : State) : Except FaultCode Wide := if s.vw then .ok s.cw else .error .unwritten

/-- Read `CH`, or raise `UNWRITTEN` (10_state.md R20). -/
def readCh (s : State) : Except FaultCode Narrow := if s.vn then .ok s.ch else .error .unwritten

/-- Read `SYN`, or raise `UNWRITTEN` (10_state.md R20). -/
def readSyn (s : State) : Except FaultCode Syndrome := if s.vs then .ok s.syn else .error .unwritten

/-- `CW <- v`. -/
def writeCw (v : Wide) (s : State) : State := { s with cw := v }

/-- `CH <- v`. -/
def writeCh (v : Narrow) (s : State) : State := { s with ch := v }

/-- `SYN <- v`. -/
def writeSyn (v : Syndrome) (s : State) : State := { s with syn := v }

/-- The reset event (70_reset_and_hazards.md R125): the flags go to 0, the registers are left with unspecified bits
(log entry 1), and nothing is put out (R136). -/
def applyReset (s : State) : State :=
  { s with
    cw := Config.unsetCw (s.resets + 1)
    ch := Config.unsetCh (s.resets + 1)
    syn := Config.unsetSyn (s.resets + 1)
    vw := false
    vn := false
    vs := false
    response := none
    resets := s.resets + 1 }

/-- The host presents nothing: the block waits, and puts nothing out (10_state.md R22, 20_memory.md R41 (d);
log entry 5). -/
def waitForHost (s : State) : State := { s with response := none }

/-- The host presents the word `w` before everything else it is going to present. -/
def presentFirst (w : CmdWord) (s : State) : State := { s with inputs := .command w :: s.inputs }

end Sys2Proof.Machine
end

