-- ==== Sys2Proof/Machine/Operands.lean ====
section
/-! DEFINITION. The operand forms: what a 4-bit `idx` names in each bit-index space, and how a result is widened
into the 16-bit response value (20_memory.md R32, R33, R39; 30_encoding.md R47, R55). -/

namespace Sys2Proof.Machine

/-- A wide index: every 4-bit value names a bit of `CW` (20_memory.md R32). -/
def wideIndex (idx : BitIdx) : Fin 16 := idx.toFin

/-- A narrow index: 0 to 7, or the fault `INDEX_RANGE` (20_memory.md R33, 60_exceptions.md R113). -/
def narrowIndex (idx : BitIdx) : Except FaultCode (Fin 8) :=
  if h : idx.toNat < 8 then .ok ⟨idx.toNat, h⟩ else .error .indexRange

/-- The character bit of a data position, or the fault `INDEX_RANGE` (41_layout.md R80). -/
def layoutIndex (idx : BitIdx) : Except FaultCode (Fin 8) :=
  match dataToChar (wideIndex idx) with
  | some k => .ok k
  | none => .error .indexRange

/-- A `bool` as a response value: 1 or 0 (30_encoding.md R55). -/
def boolValue (b : Bool) : Wide := if b then 1#16 else 0#16

/-- A count as a response value (30_encoding.md R55, 40_bitfield.md R61). -/
def countValue (n : Nat) : Wide := BitVec.ofNat 16 n

/-- `zext_16` of a narrower value (30_encoding.md R54). -/
def zext16 {n : Nat} (v : BitVec n) : Wide := v.setWidth 16

end Sys2Proof.Machine
end

