-- ==== Sys2Proof/Machine/Decoding.lean ====
section
/-! DEFINITION. The commands of the code: layout lookup, corrector, extractor, and the document's two entry points
(41_layout.md R80, 42_corrector.md R93, 43_extractor.md R97, 44_interface_ops.md R102, R103). None faults for the
content of a register or of an operand (60_exceptions.md R110, R120). -/

namespace Sys2Proof.Machine

/-- `MAP idx`: reads no register, so it works straight after reset (R80). -/
def execMap (idx : BitIdx) (s : State) : Host.Outcome State Fault Refusal :=
  complete s do
    let k ← layoutIndex idx
    .ok (s, countValue k.val)

/-- `COR`: `SYN` is written also when the syndrome is 0 (R93). -/
def execCor (s : State) : Host.Outcome State Fault Refusal :=
  complete s do
    let cw ← readCw s
    let r := correct cw
    .ok (setVs (writeSyn r.2 (writeCw r.1 s)), zext16 r.2)

/-- `EXT`: reads `CW` only; the old content of `CH` is discarded (R97). -/
def execExt (s : State) : Host.Outcome State Fault Refusal :=
  complete s do
    let cw ← readCw s
    let c := toCharacter cw
    .ok (setVn (writeCh c s), zext16 c)

/-- `DEC imm16`: reads no register (R102). -/
def execDec (imm : Wide) (s : State) : Host.Outcome State Fault Refusal :=
  let r := correct imm
  let c := toCharacter r.1
  complete s (.ok (setVn (setVs (setVw (writeCh c (writeSyn r.2 (writeCw r.1 s))))), zext16 c))

/-- `INS imm16`: no syndrome is computed (R103). -/
def execIns (imm : Wide) (s : State) : Host.Outcome State Fault Refusal :=
  let c := toCharacter imm
  complete s (.ok (setVn (setVw (writeCh c (writeCw imm s))), zext16 c))

end Sys2Proof.Machine
end

