-- ==== Sys2Proof/Machine/NarrowBits.lean ====
section
/-! DEFINITION. The BitField primitives on `CH` (40_bitfield.md R71 to R74). The index is checked before the valid
flag (60_exceptions.md R116). -/

namespace Sys2Proof.Machine

/-- `TSTN idx` (R71). -/
def execTstn (idx : BitIdx) (s : State) : Host.Outcome State Fault Refusal :=
  complete s do
    let i ← narrowIndex idx
    let ch ← readCh s
    .ok (s, boolValue (isBitSet ch i))

/-- `SETN idx` (R72). -/
def execSetn (idx : BitIdx) (s : State) : Host.Outcome State Fault Refusal :=
  complete s do
    let i ← narrowIndex idx
    let ch ← readCh s
    .ok (writeCh (setBit ch i) s, 0#16)

/-- `FLPN idx` (R73). -/
def execFlpn (idx : BitIdx) (s : State) : Host.Outcome State Fault Refusal :=
  complete s do
    let i ← narrowIndex idx
    let ch ← readCh s
    .ok (writeCh (flipBit ch i) s, 0#16)

/-- `CNTN` (R74). -/
def execCntn (s : State) : Host.Outcome State Fault Refusal :=
  complete s do
    let ch ← readCh s
    .ok (s, countValue (popCount ch))

end Sys2Proof.Machine
end

