-- ==== Sys2Proof/Machine/Transfer.lean ====
section
/-! DEFINITION. The register transfer commands (44_interface_ops.md R104 to R109). -/

namespace Sys2Proof.Machine

/-- `LDW imm16` (R104). -/
def execLdw (imm : Wide) (s : State) : Host.Outcome State Fault Refusal :=
  complete s (.ok (setVw (writeCw imm s), 0#16))

/-- `LDN imm8` (R105). -/
def execLdn (imm : Narrow) (s : State) : Host.Outcome State Fault Refusal :=
  complete s (.ok (setVn (writeCh imm s), 0#16))

/-- `RDW` (R106). -/
def execRdw (s : State) : Host.Outcome State Fault Refusal :=
  complete s do
    let cw ← readCw s
    .ok (s, cw)

/-- `RDN` (R107). -/
def execRdn (s : State) : Host.Outcome State Fault Refusal :=
  complete s do
    let ch ← readCh s
    .ok (s, zext16 ch)

/-- `RDS` (R108). -/
def execRds (s : State) : Host.Outcome State Fault Refusal :=
  complete s do
    let syn ← readSyn s
    .ok (s, zext16 syn)

/-- `RDST`, the one read that works in every state (R109). -/
def execRdst (s : State) : Host.Outcome State Fault Refusal :=
  complete s (.ok (s, statusWord s))

end Sys2Proof.Machine
end

