-- ==== Sys2Proof/Machine/WideBits.lean ====
section
/-! DEFINITION. The BitField primitives on `CW` (40_bitfield.md R67 to R70). -/

namespace Sys2Proof.Machine

/-- `TSTW idx` (R67). -/
def execTstw (idx : BitIdx) (s : State) : Host.Outcome State Fault Refusal :=
  complete s do
    let cw ← readCw s
    .ok (s, boolValue (isBitSet cw (wideIndex idx)))

/-- `SETW idx` (R68). -/
def execSetw (idx : BitIdx) (s : State) : Host.Outcome State Fault Refusal :=
  complete s do
    let cw ← readCw s
    .ok (writeCw (setBit cw (wideIndex idx)) s, 0#16)

/-- `FLPW idx` (R69). -/
def execFlpw (idx : BitIdx) (s : State) : Host.Outcome State Fault Refusal :=
  complete s do
    let cw ← readCw s
    .ok (writeCw (flipBit cw (wideIndex idx)) s, 0#16)

/-- `CNTW` (R70). -/
def execCntw (s : State) : Host.Outcome State Fault Refusal :=
  complete s do
    let cw ← readCw s
    .ok (s, countValue (popCount cw))

end Sys2Proof.Machine
end

