-- ==== Sys2Proof/Syntax.lean ====
section
/-! DEFINITION. The commands of the block, one constructor per row of the opcode map (30_encoding.md R48).
An operand has exactly the width its format gives it (R46), so every term spells one command and no term is
ill-formed; the must-be-zero fields of a command WORD are checked in WellFormed.lean and Decode.lean. A narrow
command or `MAP` with a bad index is a command (R51): its meaning answers with the fault `INDEX_RANGE`. -/

namespace Sys2Proof

/-- The 19 commands (30_encoding.md R48). -/
inductive Instr where
  /-- `LDW imm16`: load the codeword register (R104). -/
  | ldw (imm : Wide)
  /-- `LDN imm8`: load the character register (R105). -/
  | ldn (imm : Narrow)
  /-- `RDW`: read the codeword register (R106). -/
  | rdw
  /-- `RDN`: read the character register (R107). -/
  | rdn
  /-- `RDS`: read the syndrome register (R108). -/
  | rds
  /-- `RDST`: read the valid flags (R109). -/
  | rdst
  /-- `TSTW idx`: test a wide bit (R67). -/
  | tstw (idx : BitIdx)
  /-- `SETW idx`: set a wide bit (R68). -/
  | setw (idx : BitIdx)
  /-- `FLPW idx`: flip a wide bit (R69). -/
  | flpw (idx : BitIdx)
  /-- `CNTW`: count the set bits of the codeword register (R70). -/
  | cntw
  /-- `TSTN idx`: test a narrow bit (R71). -/
  | tstn (idx : BitIdx)
  /-- `SETN idx`: set a narrow bit (R72). -/
  | setn (idx : BitIdx)
  /-- `FLPN idx`: flip a narrow bit (R73). -/
  | flpn (idx : BitIdx)
  /-- `CNTN`: count the set bits of the character register (R74). -/
  | cntn
  /-- `MAP idx`: layout lookup (R80). -/
  | map (idx : BitIdx)
  /-- `COR`: correct the codeword register in place (R93). -/
  | cor
  /-- `EXT`: extract the character of the codeword register (R97). -/
  | ext
  /-- `DEC imm16`: decode one codeword (R102). -/
  | dec (imm : Wide)
  /-- `INS imm16`: inspect one codeword (R103). -/
  | ins (imm : Wide)
  deriving DecidableEq, Repr

end Sys2Proof
end

