-- ==== Sys2Proof/Machine/Dispatch.lean ====
section
/-! DEFINITION. What each command does: one arm per constructor of Instr. -/

namespace Sys2Proof.Machine

def exec (i : Instr) (s : State) : Host.Outcome State Fault Refusal :=
  match i with
  | .ldw imm => Sys2Proof.Machine.execLdw imm s
  | .ldn imm => Sys2Proof.Machine.execLdn imm s
  | .rdw => Sys2Proof.Machine.execRdw s
  | .rdn => Sys2Proof.Machine.execRdn s
  | .rds => Sys2Proof.Machine.execRds s
  | .rdst => Sys2Proof.Machine.execRdst s
  | .tstw idx => Sys2Proof.Machine.execTstw idx s
  | .setw idx => Sys2Proof.Machine.execSetw idx s
  | .flpw idx => Sys2Proof.Machine.execFlpw idx s
  | .cntw => Sys2Proof.Machine.execCntw s
  | .tstn idx => Sys2Proof.Machine.execTstn idx s
  | .setn idx => Sys2Proof.Machine.execSetn idx s
  | .flpn idx => Sys2Proof.Machine.execFlpn idx s
  | .cntn => Sys2Proof.Machine.execCntn s
  | .map idx => Sys2Proof.Machine.execMap idx s
  | .cor => Sys2Proof.Machine.execCor s
  | .ext => Sys2Proof.Machine.execExt s
  | .dec imm => Sys2Proof.Machine.execDec imm s
  | .ins imm => Sys2Proof.Machine.execIns imm s

end Sys2Proof.Machine
end

