-- ==== Sys2Proof/Machine/Encoding.lean ====
section
/-! DEFINITION. The tables of the command word: its fields, the four formats, the opcode map
(30_encoding.md R44 to R49). Decode.lean's decoder and encoder and WellFormed.lean's check are written from them. -/

namespace Sys2Proof

/-- Field `opc`, bits 31:24 (R45). -/
def opcOf (w : CmdWord) : BitVec 8 := w.extractLsb' 24 8

/-- Field `rsv`, bits 23:20, must be 0 in every command (R45). -/
def rsvOf (w : CmdWord) : BitVec 4 := w.extractLsb' 20 4

/-- Field `idx`, bits 19:16 (R45). -/
def idxOf (w : CmdWord) : BitIdx := w.extractLsb' 16 4

/-- Field `imm`, bits 15:0 (R45). -/
def immOf (w : CmdWord) : Wide := w.extractLsb' 0 16

/-- The four formats, named by which operand fields are live (R46). -/
inductive Format where
  /-- No live field. -/
  | Z
  /-- `idx` is live. -/
  | X
  /-- `imm[15:0]` is live. -/
  | I16
  /-- `imm[7:0]` is live, `imm[15:8]` must be 0. -/
  | I8
  deriving DecidableEq, Repr

/-- The 19 mnemonics of the opcode map (R48), without operands. -/
inductive Op where
  | ldw | ldn | rdw | rdn | rds | rdst
  | tstw | setw | flpw | cntw
  | tstn | setn | flpn | cntn
  | map | cor | ext | dec | ins
  deriving DecidableEq, Repr

/-- All rows of the opcode map, in its order (R48). -/
def Op.all : List Op :=
  [.ldw, .ldn, .rdw, .rdn, .rds, .rdst, .tstw, .setw, .flpw, .cntw, .tstn, .setn, .flpn, .cntn, .map, .cor, .ext,
   .dec, .ins]

/-- Column `opc` of the opcode map (R48). -/
def Op.opcode : Op → BitVec 8
  | .ldw => 0x10#8
  | .ldn => 0x11#8
  | .rdw => 0x12#8
  | .rdn => 0x13#8
  | .rds => 0x14#8
  | .rdst => 0x15#8
  | .tstw => 0x20#8
  | .setw => 0x21#8
  | .flpw => 0x22#8
  | .cntw => 0x23#8
  | .tstn => 0x30#8
  | .setn => 0x31#8
  | .flpn => 0x32#8
  | .cntn => 0x33#8
  | .map => 0x40#8
  | .cor => 0x50#8
  | .ext => 0x60#8
  | .dec => 0x70#8
  | .ins => 0x71#8

/-- Column `format` of the opcode map (R46, R48). -/
def Op.format : Op → Format
  | .ldw | .dec | .ins => .I16
  | .ldn => .I8
  | .tstw | .setw | .flpw | .tstn | .setn | .flpn | .map => .X
  | .rdw | .rdn | .rds | .rdst | .cntw | .cntn | .cor | .ext => .Z

/-- The command an opcode selects, if the opcode is listed (R48). -/
def Op.ofOpcode? (opc : BitVec 8) : Option Op := Op.all.find? fun op => op.opcode == opc

/-- Are the fields that the format leaves dead all 0? `rsv` is dead in every format (R45, R46). -/
def deadFieldsZero (f : Format) (w : CmdWord) : Bool :=
  rsvOf w == 0#4 &&
    match f with
    | .Z => idxOf w == 0#4 && immOf w == 0#16
    | .X => immOf w == 0#16
    | .I16 => idxOf w == 0#4
    | .I8 => idxOf w == 0#4 && (immOf w).extractLsb' 8 8 == 0#8

/-- A row of the machine-readable opcode table: a word `w` is the row's command exactly when
`w &&& mask = pattern` (R49; the spec calls the pattern `match`). -/
structure Row where
  op : Op
  pattern : CmdWord
  mask : CmdWord
  deriving DecidableEq, Repr

/-- The mask of each format (R49). -/
def Format.mask : Format → CmdWord
  | .Z => 0xFFFFFFFF#32
  | .X => 0xFFF0FFFF#32
  | .I16 => 0xFFFF0000#32
  | .I8 => 0xFFFFFF00#32

/-- The opcode table: `match` is `opc << 24` in every row (R49). -/
def opcodeTable : List Row :=
  Op.all.map fun op => ⟨op, op.opcode.setWidth 32 <<< 24, op.format.mask⟩

/-- Does the word match the row (R49)? -/
def Row.covers (r : Row) (w : CmdWord) : Bool := w &&& r.mask == r.pattern

/-- The row an instruction stands in. -/
def Instr.op : Instr → Op
  | .ldw _ => .ldw
  | .ldn _ => .ldn
  | .rdw => .rdw
  | .rdn => .rdn
  | .rds => .rds
  | .rdst => .rdst
  | .tstw _ => .tstw
  | .setw _ => .setw
  | .flpw _ => .flpw
  | .cntw => .cntw
  | .tstn _ => .tstn
  | .setn _ => .setn
  | .flpn _ => .flpn
  | .cntn => .cntn
  | .map _ => .map
  | .cor => .cor
  | .ext => .ext
  | .dec _ => .dec
  | .ins _ => .ins

/-- What an instruction's word holds in `idx`: its operand, or 0 where the field is dead (R46). -/
def Instr.idxField : Instr → BitIdx
  | .tstw idx | .setw idx | .flpw idx | .tstn idx | .setn idx | .flpn idx | .map idx => idx
  | .ldw _ | .ldn _ | .rdw | .rdn | .rds | .rdst | .cntw | .cntn | .cor | .ext | .dec _ | .ins _ => 0#4

/-- What an instruction's word holds in `imm`: its operand, or 0 where the field is dead (R46); an 8-bit operand
stands in `imm[7:0]` under zeros. -/
def Instr.immField : Instr → Wide
  | .ldw imm | .dec imm | .ins imm => imm
  | .ldn imm => imm.setWidth 16
  | .rdw | .rdn | .rds | .rdst | .tstw _ | .setw _ | .flpw _ | .cntw | .tstn _ | .setn _ | .flpn _ | .cntn | .map _
  | .cor | .ext => 0#16

/-- The instruction that a row spells with these operand fields, used as they stand (R47); an `imm8` operand is
`imm[7:0]`. -/
def Op.instr (op : Op) (idx : BitIdx) (imm : Wide) : Instr :=
  match op with
  | .ldw => .ldw imm
  | .ldn => .ldn (imm.extractLsb' 0 8)
  | .rdw => .rdw
  | .rdn => .rdn
  | .rds => .rds
  | .rdst => .rdst
  | .tstw => .tstw idx
  | .setw => .setw idx
  | .flpw => .flpw idx
  | .cntw => .cntw
  | .tstn => .tstn idx
  | .setn => .setn idx
  | .flpn => .flpn idx
  | .cntn => .cntn
  | .map => .map idx
  | .cor => .cor
  | .ext => .ext
  | .dec => .dec imm
  | .ins => .ins imm

end Sys2Proof
end

