-- ==== Sys2Proof/WellFormed.lean ====
section
/-! DEFINITION. Well-formed command words: a listed opcode, and 0 in every field its format leaves dead
(30_encoding.md R45, R46, R50). A term of Instr is well-formed by its operands' types; a WORD may fail, and the
checks it can fail are the ones below. -/

namespace Sys2Proof

/-- The word spells a command: its opcode is listed (R48) and its must-be-zero fields are 0 (R46). -/
def wellFormedWord (w : CmdWord) : Bool :=
  match Op.ofOpcode? (opcOf w) with
  | none => false
  | some op => deadFieldsZero op.format w

end Sys2Proof
end

