-- ==== Sys2Proof/Decode.lean ====
section
/-! DEFINITION. The decoder, total on 32-bit words, and the encoder (30_encoding.md R44 to R50, R56). Decoding
looks at the word alone and never at the state (R49). No byte order arises (20_memory.md R37): a command word is
one 32-bit number. -/

namespace Sys2Proof

/-- Why a word spells no command (30_encoding.md R50). Both give the fault `ILLEGAL` (60_exceptions.md R112). -/
inductive Illegal where
  /-- `opc` is one of the 237 unlisted values. -/
  | unlistedOpc
  /-- The opcode is listed and a must-be-zero field of its format is not 0. -/
  | mustBeZero
  deriving DecidableEq, Repr

/-- The decoder (R49, R50). -/
def decode (w : CmdWord) : Except Illegal Instr :=
  match Op.ofOpcode? (opcOf w) with
  | none => .error .unlistedOpc
  | some op => if deadFieldsZero op.format w then .ok (op.instr (idxOf w) (immOf w)) else .error .mustBeZero

/-- The word made of the four fields (R45). -/
def packWord (opc : BitVec 8) (rsv : BitVec 4) (idx : BitIdx) (imm : Wide) : CmdWord := opc ++ rsv ++ idx ++ imm

/-- The encoder: the instruction's opcode over its operand fields, `rsv` 0 (R45, R46). -/
def encode (i : Instr) : CmdWord := packWord i.op.opcode 0#4 i.idxField i.immField

/-- The command word that the opcode table's numbering `nbits`, `w` means: bit 0 of `w` is bit 0 of the word, and
every bit from `nbits` up is 0. -/
def tableWord (nbits w : Nat) : CmdWord := BitVec.ofNat 32 (w % 2 ^ nbits)

/-- The instruction the decoder reads from a word so numbered. -/
def decodeTableWord (nbits w : Nat) : Option Instr :=
  match decode (tableWord nbits w) with
  | .ok i => some i
  | .error _ => none

end Sys2Proof
end

