-- ==== Sys2Proof/Machine/Fetch.lean ====
section
/-! DEFINITION. Taking what the host presents next. There is no program counter and no instruction memory: the order
of execution is the order of presentation (10_state.md R22, 20_memory.md R41). -/

namespace Sys2Proof.Machine

/-- What the next step is about, and the state with the host's input taken. -/
inductive Fetched where
  /-- The host presents nothing. -/
  | idle (t : State)
  /-- The host applies the reset event (70_reset_and_hazards.md R125, R126). -/
  | reset (t : State)
  /-- The host presents a word that spells no command (30_encoding.md R50). -/
  | illegal (t : State)
  /-- The host presents a command. -/
  | instr (i : Instr) (t : State)
  deriving DecidableEq, Repr

/-- Take the head of the host's inputs and decode it; decoding looks at the word alone (30_encoding.md R49). -/
def fetch (s : State) : Fetched :=
  match s.inputs with
  | [] => .idle s
  | .reset :: rest => .reset { s with inputs := rest }
  | .command w :: rest =>
    match decode w with
    | .ok i => .instr i { s with inputs := rest }
    | .error _ => .illegal { s with inputs := rest }

end Sys2Proof.Machine
end

