-- ==== Sys2Proof/Machine/Step.lean ====
section
/-! DEFINITION. One step: the block takes what the host presents next and performs it wholly (20_memory.md R41). A
word that spells no command takes the fault `ILLEGAL` (60_exceptions.md R112). The reset event is applied between
commands, never during one (70_reset_and_hazards.md R126). -/

namespace Sys2Proof.Machine

/-- One step of the block and its host. -/
def step (s : State) : Host.Outcome State Fault Refusal :=
  match fetch s with
  | .idle t => .next (waitForHost t)
  | .reset t => .next (applyReset t)
  | .illegal t => .next (raise .illegal t)
  | .instr i t => exec i t

/-- `s` with the word that the opcode table numbers `nbits`, `w` presented next (log entry 2): the very next step
runs it. -/
def State.withFetchWord (s : State) (nbits w : Nat) : State := presentFirst (tableWord nbits w) s

end Sys2Proof.Machine
end

