-- ==== Sys2Proof/Machine/Assembler.lean ====
section
/-! DEFINITION. The assembly notation of 30_encoding.md R56: one command a line, a mnemonic in upper case or the
document's function name as its long spelling, at most one unsigned operand, decimal or `0x` hexadecimal, and a
comment from `;` to the end of the line. No labels, no directives, no pseudo-instructions (R57). The assembler is the
host's tool: no step of the block uses it. What R56 leaves open about spaces, digits and empty lines: log entry 6; about a
line with an operand too few or too many: log entry 10. -/

namespace Sys2Proof

/-- Why the assembler rejects a line (R56). The names are the model's own (log entry 10, DESIGN CHOICE). -/
inductive AsmError where
  /-- The first word of the line is no mnemonic and no long spelling. -/
  | unknownMnemonic
  /-- The operand is no unsigned number. -/
  | notANumber
  /-- The mnemonic takes an operand and the line has none. DESIGN CHOICE (log entry 10): R56's "absent operands 0"
  could also be read as encoding operand 0. -/
  | missingOperand
  /-- The mnemonic takes no operand and the line has one (that a 0 there is rejected too: DESIGN CHOICE, log entry
  10), or the line has more than one. -/
  | extraOperand
  /-- The operand does not fit its field. -/
  | outOfRange
  deriving DecidableEq, Repr

/-- A source line, read but not yet checked. -/
structure AsmLine where
  op : Op
  operand : Option Nat
  deriving DecidableEq, Repr

/-- The number of values the operand of a format may take, none where it takes no operand: `idx` 0 to 15, `imm16`
0 to 0xFFFF, `imm8` 0 to 0xFF (R56). -/
def Format.operandBound : Format → Option Nat
  | .Z => none
  | .X => some 16
  | .I16 => some 65536
  | .I8 => some 256

/-- The command a line spells, or why the assembler rejects it (R56). DESIGN CHOICE (log entry 10, unsafe for claims
about such a line only): a line that lacks the operand its mnemonic takes (`SETW` alone) is rejected and not encoded
with operand 0, and a line that gives one to a mnemonic without operand is rejected even where it is 0 (`COR 0`). -/
def assembleLine (l : AsmLine) : Except AsmError Instr :=
  match l.op.format.operandBound, l.operand with
  | none, none => .ok (l.op.instr 0#4 0#16)
  | none, some _ => .error .extraOperand
  | some _, none => .error .missingOperand
  | some bound, some n =>
    if n < bound then .ok (l.op.instr (BitVec.ofNat 4 n) (BitVec.ofNat 16 n)) else .error .outOfRange

/-- The mnemonics and their long spellings (R56). -/
def spellings : List (String × Op) :=
  [("LDW", .ldw), ("LDN", .ldn), ("RDW", .rdw), ("RDN", .rdn), ("RDS", .rds), ("RDST", .rdst)] ++
  [("TSTW", .tstw), ("SETW", .setw), ("FLPW", .flpw), ("CNTW", .cntw)] ++
  [("TSTN", .tstn), ("SETN", .setn), ("FLPN", .flpn), ("CNTN", .cntn)] ++
  [("MAP", .map), ("COR", .cor), ("EXT", .ext), ("DEC", .dec), ("INS", .ins)] ++
  [("isBitSet.w", .tstw), ("isBitSet.n", .tstn), ("setBit.w", .setw), ("setBit.n", .setn)] ++
  [("flipBit.w", .flpw), ("flipBit.n", .flpn), ("popCount.w", .cntw), ("popCount.n", .cntn)] ++
  [("dataBitToCharBit", .map), ("correct", .cor), ("toCharacter", .ext), ("decodeOne", .dec), ("inspect", .ins)]

/-- The row a spelling names. -/
def opNamed (name : List Char) : Option Op :=
  (spellings.find? fun e => e.1.toList == name).map Prod.snd

/-- The value of a digit in the given base. -/
def digitValue (base : Nat) (c : Char) : Option Nat :=
  let d :=
    if '0' ≤ c ∧ c ≤ '9' then c.toNat - '0'.toNat
    else if 'a' ≤ c ∧ c ≤ 'f' then c.toNat - 'a'.toNat + 10
    else if 'A' ≤ c ∧ c ≤ 'F' then c.toNat - 'A'.toNat + 10
    else base
  if d < base then some d else none

/-- The number that digits spell after `acc`. -/
def digitsValue (base acc : Nat) : List Char → Option Nat
  | [] => some acc
  | c :: cs =>
    match digitValue base c with
    | some d => digitsValue base (acc * base + d) cs
    | none => none

/-- An unsigned operand: decimal, or hexadecimal with `0x` (R56). -/
def numberOf : List Char → Option Nat
  | [] => none
  | ['0', 'x'] => none
  | '0' :: 'x' :: ds => digitsValue 16 0 ds
  | ds => digitsValue 10 0 ds

/-- The words of a line: what stands before `;`, cut at spaces. -/
def wordsOf (line : String) : List (List Char) :=
  ((line.toList.takeWhile (· ≠ ';')).splitOn ' ').filter (· ≠ [])

/-- Read a line; nothing where it holds no command. -/
def readLine (line : String) : Except AsmError (Option AsmLine) :=
  match wordsOf line with
  | [] => .ok none
  | name :: rest =>
    match opNamed name, rest with
    | none, _ => .error .unknownMnemonic
    | some op, [] => .ok (some ⟨op, none⟩)
    | some op, [digits] =>
      match numberOf digits with
      | some n => .ok (some ⟨op, some n⟩)
      | none => .error .notANumber
    | some _, _ :: _ :: _ => .error .extraOperand

/-- Assemble a line of text into its command word; nothing where the line holds no command (R56). -/
def assembleText (line : String) : Except AsmError (Option CmdWord) :=
  match readLine line with
  | .error e => .error e
  | .ok none => .ok none
  | .ok (some l) =>
    match assembleLine l with
    | .ok i => .ok (some (encode i))
    | .error e => .error e

end Sys2Proof
end

