-- ==== Sys2Proof/Safety.lean ====
section
/-! DEFINITION. The terms the claims are stated in: which codewords are valid, which registers a command reads and
writes, when two states are the same to the host, the machine's invariant, and the responses of a run. The lists of
commands are the spec's own lists, written out beside the meanings and not computed from them. -/

namespace Sys2Proof.Machine

/-- A valid codeword: all four parity checks pass (42_corrector.md R84). -/
abbrev ValidCodeword (v : Wide) : Prop := ∀ p ∈ Parity.all, checkFails v p = false

/-- The closed form of the syndrome: the exclusive OR of the positions 1 to 12 whose bit is 1 (42_corrector.md
R88). -/
def xorOfSetPositions (cw : Wide) : Syndrome :=
  [1, 2, 3, 4, 5, 6, 7, 8, 9, 10, 11, 12].foldl
    (fun x b => if cw.getLsbD b then x ^^^ BitVec.ofNat 4 b else x) 0#4

/-- The data positions of a codeword (41_layout.md R75). -/
def dataPositions : List Nat := [3, 5, 6, 7, 9, 10, 11, 12]

/-- The commands that read `CW` (60_exceptions.md R114). -/
def readsCw : Instr → Bool
  | .rdw | .tstw _ | .setw _ | .flpw _ | .cntw | .cor | .ext => true
  | .ldw _ | .ldn _ | .rdn | .rds | .rdst | .tstn _ | .setn _ | .flpn _ | .cntn | .map _ | .dec _ | .ins _ => false

/-- The commands that read `CH` (60_exceptions.md R114). -/
def readsCh : Instr → Bool
  | .rdn | .tstn _ | .setn _ | .flpn _ | .cntn => true
  | .ldw _ | .ldn _ | .rdw | .rds | .rdst | .tstw _ | .setw _ | .flpw _ | .cntw | .map _ | .cor | .ext | .dec _
  | .ins _ => false

/-- The command that reads `SYN` (60_exceptions.md R114). -/
def readsSyn : Instr → Bool
  | .rds => true
  | .ldw _ | .ldn _ | .rdw | .rdn | .rdst | .tstw _ | .setw _ | .flpw _ | .cntw | .tstn _ | .setn _ | .flpn _ | .cntn
  | .map _ | .cor | .ext | .dec _ | .ins _ => false

/-- The command names an index outside its container or outside the table (60_exceptions.md R113). -/
def badIndex : Instr → Bool
  | .tstn idx | .setn idx | .flpn idx => decide (8 ≤ idx.toNat)
  | .map idx => decide (idx.toNat ∉ dataPositions)
  | .ldw _ | .ldn _ | .rdw | .rdn | .rds | .rdst | .tstw _ | .setw _ | .flpw _ | .cntw | .cntn | .cor | .ext | .dec _
  | .ins _ => false

/-- The command would read a register whose valid flag is 0 (10_state.md R20). -/
def readsUnwritten (i : Instr) (s : State) : Bool :=
  readsCw i && !s.vw || readsCh i && !s.vn || readsSyn i && !s.vs

/-- The commands that may write `CW` (10_state.md R16). -/
def writesCw : Instr → Bool
  | .ldw _ | .dec _ | .ins _ | .setw _ | .flpw _ | .cor => true
  | .ldn _ | .rdw | .rdn | .rds | .rdst | .tstw _ | .cntw | .tstn _ | .setn _ | .flpn _ | .cntn | .map _ | .ext =>
    false

/-- The commands that may write `CH` (10_state.md R17). -/
def writesCh : Instr → Bool
  | .ldn _ | .ext | .dec _ | .ins _ | .setn _ | .flpn _ => true
  | .ldw _ | .rdw | .rdn | .rds | .rdst | .tstw _ | .setw _ | .flpw _ | .cntw | .tstn _ | .cntn | .map _ | .cor =>
    false

/-- The commands that write `SYN` (10_state.md R18). -/
def writesSyn : Instr → Bool
  | .cor | .dec _ => true
  | .ldw _ | .ldn _ | .rdw | .rdn | .rds | .rdst | .tstw _ | .setw _ | .flpw _ | .cntw | .tstn _ | .setn _ | .flpn _
  | .cntn | .map _ | .ext | .ins _ => false

/-- The commands that set `VW` to 1 (10_state.md R19). -/
def setsVw : Instr → Bool
  | .ldw _ | .dec _ | .ins _ => true
  | .ldn _ | .rdw | .rdn | .rds | .rdst | .tstw _ | .setw _ | .flpw _ | .cntw | .tstn _ | .setn _ | .flpn _ | .cntn
  | .map _ | .cor | .ext => false

/-- The commands that set `VN` to 1 (10_state.md R19). -/
def setsVn : Instr → Bool
  | .ldn _ | .ext | .dec _ | .ins _ => true
  | .ldw _ | .rdw | .rdn | .rds | .rdst | .tstw _ | .setw _ | .flpw _ | .cntw | .tstn _ | .setn _ | .flpn _ | .cntn
  | .map _ | .cor => false

/-- The commands that set `VS` to 1 (10_state.md R19). -/
def setsVs : Instr → Bool
  | .cor | .dec _ => true
  | .ldw _ | .ldn _ | .rdw | .rdn | .rds | .rdst | .tstw _ | .setw _ | .flpw _ | .cntw | .tstn _ | .setn _ | .flpn _
  | .cntn | .map _ | .ext | .ins _ => false

/-- The two states agree on the whole architectural state: six items (10_state.md R15). -/
abbrev SameRegisters (s t : State) : Prop :=
  s.cw = t.cw ∧ s.ch = t.ch ∧ s.syn = t.syn ∧ s.vw = t.vw ∧ s.vn = t.vn ∧ s.vs = t.vs

/-- The two states are the same to the host: the same flags, the same content in every register that has been
written, the same inputs to come and the same response. What an unwritten register holds does not count
(10_state.md R20, 70_reset_and_hazards.md R125). -/
abbrev SameToHost (s t : State) : Prop :=
  s.vw = t.vw ∧ s.vn = t.vn ∧ s.vs = t.vs ∧
  (s.vw = true → s.cw = t.cw) ∧ (s.vn = true → s.ch = t.ch) ∧ (s.vs = true → s.syn = t.syn) ∧
  s.inputs = t.inputs ∧ s.response = t.response

/-- The invariant of the machine: `SYN` is valid only when `CW` is, since `COR` needs `VW` and `DEC` sets both
(10_state.md R19); and a response that reports a fault carries the value 0 (30_encoding.md R54). -/
abbrev State.Inv (s : State) : Prop :=
  (s.vs = true → s.vw = true) ∧ ∀ r ∈ s.response, r.status ≠ .ok → r.value = 0#16

/-- The responses the host gets back in the next `k` steps, in order (70_reset_and_hazards.md R129). -/
def responsesOf : Nat → State → List Response
  | 0, _ => []
  | k + 1, s =>
    match step s with
    | .next t => t.response.toList ++ responsesOf k t
    | .fault _ => []
    | .refused _ => []

end Sys2Proof.Machine
end

