-- ==== Sys2Proof/Certificates/Slice0/Obligations.lean ====
section
/-! DEFINITION. The statements for the provers. Each docstring names the rule of spec/ it formalises. Where a
statement speaks of `inputs` or `response`, it uses the model's own way of showing what the host presents and gets
back (log entries 2 and 3). None rests on the value of `Config.unsetCw`, `Config.unsetCh` or `Config.unsetSyn`. -/

open Sys2Proof Sys2Proof.Machine

/-! ## Encoding -/

/-- 30_encoding.md R45 to R49, whole command set: no bit of an encoding is dropped. -/
def Obligations.DecodeOfEncode : Prop :=
  ∀ i : Instr, decode (encode i) = .ok i

/-- 30_encoding.md R50, R52: the only words that decode are the encodings, so a nonzero must-be-zero field never
decodes. -/
def Obligations.OnlyEncodedWordsDecode : Prop :=
  ∀ (w : CmdWord) (i : Instr), decode w = .ok i → w = encode i ∧ wellFormedWord w = true

/-- R49: the decoder agrees with the match and mask of every row, no word matches two rows, and the rows are those
of opcode_table.json. -/
def Obligations.WordIsCommandIffRowMatches : Prop :=
  (∀ (w : CmdWord) (r : Row), r ∈ opcodeTable →
    (w &&& r.mask = r.pattern ↔ ∃ i, decode w = .ok i ∧ i.op = r.op)) ∧
  (∀ (w : CmdWord) (r r' : Row), r ∈ opcodeTable → r' ∈ opcodeTable →
    w &&& r.mask = r.pattern → w &&& r'.mask = r'.pattern → r = r') ∧
  opcodeTable.map (fun r => (r.op, r.pattern, r.mask)) =
    [(.ldw, 0x10000000#32, 0xFFFF0000#32), (.ldn, 0x11000000#32, 0xFFFFFF00#32), (.rdw, 0x12000000#32, 0xFFFFFFFF#32),
     (.rdn, 0x13000000#32, 0xFFFFFFFF#32), (.rds, 0x14000000#32, 0xFFFFFFFF#32), (.rdst, 0x15000000#32, 0xFFFFFFFF#32),
     (.tstw, 0x20000000#32, 0xFFF0FFFF#32), (.setw, 0x21000000#32, 0xFFF0FFFF#32), (.flpw, 0x22000000#32, 0xFFF0FFFF#32),
     (.cntw, 0x23000000#32, 0xFFFFFFFF#32), (.tstn, 0x30000000#32, 0xFFF0FFFF#32), (.setn, 0x31000000#32, 0xFFF0FFFF#32),
     (.flpn, 0x32000000#32, 0xFFF0FFFF#32), (.cntn, 0x33000000#32, 0xFFFFFFFF#32), (.map, 0x40000000#32, 0xFFF0FFFF#32),
     (.cor, 0x50000000#32, 0xFFFFFFFF#32), (.ext, 0x60000000#32, 0xFFFFFFFF#32), (.dec, 0x70000000#32, 0xFFFF0000#32),
     (.ins, 0x71000000#32, 0xFFFF0000#32)]

/-- R50, R112: a word that matches no row ends with `ILLEGAL` and changes nothing; those are the words with one of
the 237 unlisted opcodes and the words with a listed opcode and a nonzero must-be-zero field, the all-zero and the
all-one word among them. -/
def Obligations.UnmatchedWordIsIllegal : Prop :=
  (∀ (s : State) (w : CmdWord) (rest : List HostInput), s.inputs = .command w :: rest →
    (∀ r ∈ opcodeTable, w &&& r.mask ≠ r.pattern) →
    step s = .next { s with inputs := rest, response := some ⟨.illegal, 0#16⟩ }) ∧
  (∀ w : CmdWord, (∀ r ∈ opcodeTable, w &&& r.mask ≠ r.pattern) ↔
    ((∀ op : Op, op.opcode ≠ opcOf w) ∨ ∃ op : Op, op.opcode = opcOf w ∧ deadFieldsZero op.format w = false)) ∧
  ((List.range 256).filter fun n => (Op.ofOpcode? (BitVec.ofNat 8 n)).isNone).length = 237 ∧
  (∀ r ∈ opcodeTable, 0x00000000#32 &&& r.mask ≠ r.pattern) ∧ (∀ r ∈ opcodeTable, 0xFFFFFFFF#32 &&& r.mask ≠ r.pattern)

/-- 30_encoding.md sections 1 to 3: words that the spec writes out decode to the commands they stand for, and three of
its illegal words do not decode. The words are those of the examples of R104, R105, R67, R72, R71, R80, R93, R97, R102
and R103, in this order, and of 95_test_vectors.md DV9. That the decoder tells `unlistedOpc` from `mustBeZero` is the
model's choice (log entry 8, DESIGN CHOICE): the spec has the one fault `ILLEGAL`. -/
def Obligations.SampleWordsDecode : Prop :=
  decode 0x10000C2B#32 = .ok (.ldw 0x0C2B#16) ∧ decode 0x11000041#32 = .ok (.ldn 0x41#8) ∧
  decode 0x20070000#32 = .ok (.tstw 7#4) ∧ decode 0x31060000#32 = .ok (.setn 6#4) ∧
  decode 0x30080000#32 = .ok (.tstn 8#4) ∧ decode 0x400B0000#32 = .ok (.map 11#4) ∧
  decode 0x50000000#32 = .ok .cor ∧ decode 0x60000000#32 = .ok .ext ∧
  decode 0x700009D0#32 = .ok (.dec 0x09D0#16) ∧ decode 0x710009D0#32 = .ok (.ins 0x09D0#16) ∧
  decode 0x24000000#32 = .error .unlistedOpc ∧ decode 0x30190000#32 = .error .mustBeZero ∧
  decode 0x11000141#32 = .error .mustBeZero

/-! ## The step -/

/-- 20_memory.md R41, 10_state.md R22: when the host's next word decodes to `i`, the step is `exec i` of the state
with that word taken, and nothing else is done around it. -/
def Obligations.StepRunsTheDecodedCommand : Prop :=
  (∀ (s : State) (w : CmdWord) (rest : List HostInput) (i : Instr), s.inputs = .command w :: rest →
    decode w = .ok i → step s = exec i { s with inputs := rest }) ∧
  (∀ (s : State) (i : Instr), step (s.withFetchWord 32 (encode i).toNat) = exec i s)

/-- The model's choice (log entries 3 and 5), resting on 10_state.md R22 and 70_reset_and_hazards.md R136: with
nothing presented the block waits and nothing changes but that no response is put out; a reset event gives none
either. -/
def Obligations.StepWithoutCommandPutsNothingOut : Prop :=
  (∀ s : State, s.inputs = [] → step s = .next { s with response := none }) ∧
  (∀ (s : State) (rest : List HostInput), s.inputs = .reset :: rest →
    ∃ t, step s = .next t ∧ t.response = none ∧ t.inputs = rest)

/-- R125: the reset event clears the three valid flags; afterwards every command is accepted, and every command that
would read `CW`, `CH` or `SYN` (with an index in range, 60_exceptions.md R116) is refused the read. -/
def Obligations.ResetEventClearsFlags : Prop :=
  ∀ (s : State) (rest : List HostInput), s.inputs = .reset :: rest →
    ∃ t, step s = .next t ∧ t.vw = false ∧ t.vn = false ∧ t.vs = false ∧ t.inputs = rest ∧
      (∀ i : Instr, ∃ u, exec i t = .next u) ∧
      (∀ i : Instr, (readsCw i || readsCh i || readsSyn i) = true → badIndex i = false →
        exec i t = .next { t with response := some ⟨.unwritten, 0#16⟩ })

/-- 10_state.md R29 and 70_reset_and_hazards.md R128 (the spec marks it derived): from the reset state, whichever
command comes first, what it answers with; `RDST` reads 0. -/
def Obligations.FirstCommandAfterReset : Prop :=
  State.reset.vw = false ∧ State.reset.vn = false ∧ State.reset.vs = false ∧
  (∀ i : Instr, ∃ t v, step (presentFirst (encode i) State.reset) = .next t ∧ t.response = some ⟨
    if badIndex i then .indexRange else if readsCw i || readsCh i || readsSyn i then .unwritten else .ok, v⟩) ∧
  step (presentFirst (encode .rdst) State.reset) = .next { State.reset with response := some ⟨.ok, 0#16⟩ }

/-! ## Register transfer commands -/

/-- R104. -/
def Obligations.LdwLoadsCodewordRegister : Prop :=
  ∀ (imm : Wide) (s : State), encode (.ldw imm) = 0x10000000#32 ||| imm.setWidth 32 ∧
    exec (.ldw imm) s = .next { s with cw := imm, vw := true, response := some ⟨.ok, 0#16⟩ }

/-- R105: the load; and a word with `opc = 0x11` and a nonzero high half of `imm` is `ILLEGAL`. -/
def Obligations.LdnLoadsCharacterRegister : Prop :=
  (∀ (imm : Narrow) (s : State), encode (.ldn imm) = 0x11000000#32 ||| imm.setWidth 32 ∧
    exec (.ldn imm) s = .next { s with ch := imm, vn := true, response := some ⟨.ok, 0#16⟩ }) ∧
  (∀ (s : State) (w : CmdWord) (rest : List HostInput), s.inputs = .command w :: rest →
    w.extractLsb' 24 8 = 0x11#8 → w.extractLsb' 8 8 ≠ 0#8 →
    step s = .next { s with inputs := rest, response := some ⟨.illegal, 0#16⟩ })

/-- R106. -/
def Obligations.RdwReadsCodewordRegister : Prop :=
  encode .rdw = 0x12000000#32 ∧
  (∀ s : State, s.vw = true → exec .rdw s = .next { s with response := some ⟨.ok, s.cw⟩ }) ∧
  (∀ s : State, s.vw = false → exec .rdw s = .next { s with response := some ⟨.unwritten, 0#16⟩ })

/-- R107. -/
def Obligations.RdnReadsCharacterRegister : Prop :=
  encode .rdn = 0x13000000#32 ∧
  (∀ s : State, s.vn = true → exec .rdn s = .next { s with response := some ⟨.ok, s.ch.setWidth 16⟩ }) ∧
  (∀ s : State, s.vn = false → exec .rdn s = .next { s with response := some ⟨.unwritten, 0#16⟩ })

/-- R108. -/
def Obligations.RdsReadsSyndromeRegister : Prop :=
  encode .rds = 0x14000000#32 ∧
  (∀ s : State, s.vs = true → exec .rds s = .next { s with response := some ⟨.ok, s.syn.setWidth 16⟩ }) ∧
  (∀ s : State, s.vs = false → exec .rds s = .next { s with response := some ⟨.unwritten, 0#16⟩ })

/-- R109: it completes in every state. -/
def Obligations.RdstReadsValidFlags : Prop :=
  encode .rdst = 0x15000000#32 ∧
  ∀ s : State, exec .rdst s = .next { s with response := some ⟨.ok,
    (if s.vw then 1#16 else 0#16) + (if s.vn then 2#16 else 0#16) + (if s.vs then 4#16 else 0#16)⟩ }

/-! ## BitField commands on `CW` -/

/-- R67. -/
def Obligations.TstwTestsWideBit : Prop :=
  ∀ (idx : BitIdx) (s : State), encode (.tstw idx) = 0x20000000#32 ||| (idx.setWidth 32 <<< 16) ∧
    (s.vw = true → exec (.tstw idx) s =
      .next { s with response := some ⟨.ok, if s.cw.getLsbD idx.toNat then 1#16 else 0#16⟩ }) ∧
    (s.vw = false → exec (.tstw idx) s = .next { s with response := some ⟨.unwritten, 0#16⟩ })

/-- R68. -/
def Obligations.SetwSetsWideBit : Prop :=
  ∀ (idx : BitIdx) (s : State), encode (.setw idx) = 0x21000000#32 ||| (idx.setWidth 32 <<< 16) ∧
    (s.vw = true → exec (.setw idx) s =
      .next { s with cw := s.cw ||| (1#16 <<< idx.toNat), response := some ⟨.ok, 0#16⟩ }) ∧
    (s.vw = false → exec (.setw idx) s = .next { s with response := some ⟨.unwritten, 0#16⟩ })

/-- R69; two flips of the same bit restore `CW`. -/
def Obligations.FlpwFlipsWideBit : Prop :=
  ∀ (idx : BitIdx) (s : State), encode (.flpw idx) = 0x22000000#32 ||| (idx.setWidth 32 <<< 16) ∧
    (s.vw = true → ∃ t, exec (.flpw idx) s = .next t ∧
      t = { s with cw := s.cw ^^^ (1#16 <<< idx.toNat), response := some ⟨.ok, 0#16⟩ } ∧
      exec (.flpw idx) t = .next { t with cw := s.cw }) ∧
    (s.vw = false → exec (.flpw idx) s = .next { s with response := some ⟨.unwritten, 0#16⟩ })

/-- R70: the count is over all 16 bits. -/
def Obligations.CntwCountsWideBits : Prop :=
  encode .cntw = 0x23000000#32 ∧
  (∀ s : State, s.vw = true → exec .cntw s =
    .next { s with response := some ⟨.ok, BitVec.ofNat 16 (∑ j : Fin 16, (s.cw.getLsbD j).toNat)⟩ }) ∧
  (∀ s : State, s.vw = false → exec .cntw s = .next { s with response := some ⟨.unwritten, 0#16⟩ })

/-! ## BitField commands on `CH` -/

/-- R71: `INDEX_RANGE` before `UNWRITTEN`. -/
def Obligations.TstnTestsNarrowBit : Prop :=
  ∀ (idx : BitIdx) (s : State), encode (.tstn idx) = 0x30000000#32 ||| (idx.setWidth 32 <<< 16) ∧
    (8 ≤ idx.toNat → exec (.tstn idx) s = .next { s with response := some ⟨.indexRange, 0#16⟩ }) ∧
    (idx.toNat < 8 → s.vn = false → exec (.tstn idx) s = .next { s with response := some ⟨.unwritten, 0#16⟩ }) ∧
    (idx.toNat < 8 → s.vn = true → exec (.tstn idx) s =
      .next { s with response := some ⟨.ok, if s.ch.getLsbD idx.toNat then 1#16 else 0#16⟩ })

/-- R72: `INDEX_RANGE` before `UNWRITTEN`. -/
def Obligations.SetnSetsNarrowBit : Prop :=
  ∀ (idx : BitIdx) (s : State), encode (.setn idx) = 0x31000000#32 ||| (idx.setWidth 32 <<< 16) ∧
    (8 ≤ idx.toNat → exec (.setn idx) s = .next { s with response := some ⟨.indexRange, 0#16⟩ }) ∧
    (idx.toNat < 8 → s.vn = false → exec (.setn idx) s = .next { s with response := some ⟨.unwritten, 0#16⟩ }) ∧
    (idx.toNat < 8 → s.vn = true → exec (.setn idx) s =
      .next { s with ch := s.ch ||| (1#8 <<< idx.toNat), response := some ⟨.ok, 0#16⟩ })

/-- R73: `INDEX_RANGE` before `UNWRITTEN`. -/
def Obligations.FlpnFlipsNarrowBit : Prop :=
  ∀ (idx : BitIdx) (s : State), encode (.flpn idx) = 0x32000000#32 ||| (idx.setWidth 32 <<< 16) ∧
    (8 ≤ idx.toNat → exec (.flpn idx) s = .next { s with response := some ⟨.indexRange, 0#16⟩ }) ∧
    (idx.toNat < 8 → s.vn = false → exec (.flpn idx) s = .next { s with response := some ⟨.unwritten, 0#16⟩ }) ∧
    (idx.toNat < 8 → s.vn = true → exec (.flpn idx) s =
      .next { s with ch := s.ch ^^^ (1#8 <<< idx.toNat), response := some ⟨.ok, 0#16⟩ })

/-- R74. -/
def Obligations.CntnCountsNarrowBits : Prop :=
  encode .cntn = 0x33000000#32 ∧
  (∀ s : State, s.vn = true → exec .cntn s =
    .next { s with response := some ⟨.ok, BitVec.ofNat 16 (∑ j : Fin 8, (s.ch.getLsbD j).toNat)⟩ }) ∧
  (∀ s : State, s.vn = false → exec .cntn s = .next { s with response := some ⟨.unwritten, 0#16⟩ })

/-! ## Layout, corrector, extractor, interface commands -/

/-- R80: in every state, the table's eight positions answer with their character bit and the other eight indices
with `INDEX_RANGE`. -/
def Obligations.MapLooksUpLayout : Prop :=
  ∀ s : State,
    (∀ idx : BitIdx, encode (.map idx) = 0x40000000#32 ||| (idx.setWidth 32 <<< 16)) ∧
    (∀ bk ∈ [(3#4, 0#16), (5#4, 1#16), (6#4, 2#16), (7#4, 3#16), (9#4, 4#16), (10#4, 5#16), (11#4, 6#16), (12#4, 7#16)],
      exec (.map bk.1) s = .next { s with response := some ⟨.ok, bk.2⟩ }) ∧
    (∀ idx ∈ [0#4, 1#4, 2#4, 4#4, 8#4, 13#4, 14#4, 15#4],
      exec (.map idx) s = .next { s with response := some ⟨.indexRange, 0#16⟩ })

/-- 42_corrector.md sections 2 and 3 (R91, R93), with what a second `COR` straight after does. That it writes 0 to `SYN`
after a syndrome of 1 to 12 is the model's reading (log entry 9, DEDUCED): R93's "changes nothing" is taken of the
codeword, since `SYN` "is written on every completed `COR`, also when `s = 0`". -/
def Obligations.CorCorrectsCodewordRegister : Prop :=
  encode .cor = 0x50000000#32 ∧
  (∀ s : State, s.vw = true → ∃ t, exec .cor s = .next t ∧
    t = { s with cw := (correct s.cw).1, syn := (correct s.cw).2, vs := true,
                 response := some ⟨.ok, (correct s.cw).2.setWidth 16⟩ } ∧
    ((correct s.cw).2.toNat ≤ 12 → exec .cor t = .next { t with syn := 0#4, response := some ⟨.ok, 0#16⟩ }) ∧
    (13 ≤ (correct s.cw).2.toNat → exec .cor t = .next { t with cw := s.cw })) ∧
  (∀ s : State, s.vw = false → exec .cor s = .next { s with response := some ⟨.unwritten, 0#16⟩ })

/-- R97: also when `VN = 0`. -/
def Obligations.ExtExtractsCharacter : Prop :=
  encode .ext = 0x60000000#32 ∧
  (∀ s : State, s.vw = true → exec .ext s =
    .next { s with ch := toCharacter s.cw, vn := true, response := some ⟨.ok, (toCharacter s.cw).setWidth 16⟩ }) ∧
  (∀ s : State, s.vw = false → exec .ext s = .next { s with response := some ⟨.unwritten, 0#16⟩ })

/-- R102: from any state, for any operand. -/
def Obligations.DecDecodesOneCodeword : Prop :=
  ∀ (imm : Wide) (s : State), encode (.dec imm) = 0x70000000#32 ||| imm.setWidth 32 ∧
    exec (.dec imm) s = .next
      { s with cw := (correct imm).1, syn := (correct imm).2, ch := toCharacter (correct imm).1,
               vw := true, vs := true, vn := true, response := some ⟨.ok, (decodeOne imm).setWidth 16⟩ }

/-- R103: from any state, for any operand. -/
def Obligations.InsInspectsOneCodeword : Prop :=
  ∀ (imm : Wide) (s : State), encode (.ins imm) = 0x71000000#32 ||| imm.setWidth 32 ∧
    exec (.ins imm) s = .next
      { s with cw := imm, ch := toCharacter imm, vw := true, vn := true,
               response := some ⟨.ok, (inspect imm).setWidth 16⟩ }

/-! ## The BitField primitives -/

/-- R58, R59, R60, at both widths: the three indexed primitives are the spec's formulas, and `set_bit` and
`flip_bit` leave every other bit as it was. -/
def Obligations.PrimitivesAreTheirFormulas : Prop :=
  ∀ n ∈ [8, 16], ∀ (v : BitVec n) (i : Fin n),
    (isBitSet v i = true ↔ (v >>> i.val) &&& 1#n = 1#n) ∧
    setBit v i = v ||| (1#n <<< i.val) ∧ flipBit v i = v ^^^ (1#n <<< i.val) ∧
    ∀ j : Nat, j ≠ i.val →
      (setBit v i).getLsbD j = v.getLsbD j ∧ (flipBit v i).getLsbD j = v.getLsbD j

/-- 40_bitfield.md section 1: the law of `set_bit` at width 16, and at width 8 by the spec's inference
"The same holds at width 8". -/
def Obligations.SetBitSetsAndClearsNothing : Prop :=
  ∀ n ∈ [8, 16], ∀ (v : BitVec n) (i : Fin n),
    isBitSet (setBit v i) i = true ∧ (∀ j : Fin n, j ≠ i → isBitSet (setBit v i) j = isBitSet v j) ∧
    setBit (setBit v i) i = setBit v i

/-- 40_bitfield.md section 1: the law of `flip_bit`, with the spec's inference "and every bit `j != i` is
unchanged". -/
def Obligations.FlipBitIsAnInvolution : Prop :=
  ∀ n ∈ [8, 16], ∀ (v : BitVec n) (i : Fin n),
    flipBit (flipBit v i) i = v ∧ isBitSet (flipBit v i) i = !isBitSet v i ∧
    ∀ j : Fin n, j ≠ i → isBitSet (flipBit v i) j = isBitSet v j

/-- 40_bitfield.md section 1: the laws of `pop_count` at any width: the sum of `is_bit_set` over the indices, at most
the width, invariant under every permutation of the bits, and its change under `set_bit` and `flip_bit` (the spec
marks the last two as its inference). -/
def Obligations.PopCountLaws : Prop :=
  ∀ (n : Nat) (v : BitVec n),
    popCount v = ∑ i : Fin n, (isBitSet v i).toNat ∧ popCount v ≤ n ∧
    (∀ (u : BitVec n) (σ : Equiv.Perm (Fin n)), (∀ i, isBitSet u i = isBitSet v (σ i)) → popCount u = popCount v) ∧
    (∀ i : Fin n, popCount (setBit v i) = popCount v + (1 - (isBitSet v i).toNat)) ∧
    (∀ i : Fin n, popCount (flipBit v i) + 2 * (isBitSet v i).toNat = popCount v + 1)

/-! ## Layout, corrector, extractor -/

/-- 41_layout.md section 1: the covering property of the masks: bit `j` of the group of `p` is bit `j` of the
codeword exactly at the data positions `j` whose number has the weight `p` in it, and 0 elsewhere. -/
def Obligations.MasksCoverByPositionNumber : Prop :=
  ∀ (cw : Wide) (p : Parity) (j : Nat),
    (group cw p).getLsbD j = (cw.getLsbD j && decide (j ∈ dataPositions) && decide (j &&& p.weight.toNat ≠ 0))

/-- R87: the whole function, with the four masks and the four weights written out. -/
def Obligations.CorrectIsTheWholeFunction : Prop :=
  ∀ cw : Wide,
    let check := fun (p : Nat) (m : Wide) =>
      if (cw.getLsbD p).toNat ≠ (∑ j : Fin 16, ((cw &&& m).getLsbD j).toNat) % 2 then p else 0
    let s := check 1 0x0AA8#16 + check 2 0x0CC8#16 + check 4 0x10E0#16 + check 8 0x1E00#16
    correct cw = if s ≠ 0 then (cw ^^^ (1#16 <<< s), BitVec.ofNat 4 s) else (cw, 0#4)

/-- R86: the syndrome is the index of the one bit that changes; no bit changes when it is 0; bit 0 never does. -/
def Obligations.CorrectFlipsTheBitTheSyndromeNames : Prop :=
  ∀ cw : Wide, (correct cw).2 = syndrome cw ∧
    (∀ j : Nat, (correct cw).1.getLsbD j =
      (cw.getLsbD j ^^ (decide (syndrome cw ≠ 0#4) && decide (j = (syndrome cw).toNat)))) ∧
    (syndrome cw = 0#4 → (correct cw).1 = cw) ∧ (correct cw).1.getLsbD 0 = cw.getLsbD 0

/-- 42_corrector.md section 1: the syndrome is the sum of the failing weights, with no carry; the second clause is
the spec's inference "bit `k` of `syndrome(cw)` is 1 exactly when the check for `p = 2^k` fails". -/
def Obligations.SyndromeIsSumOfFailingWeights : Prop :=
  ∀ cw : Wide,
    (syndrome cw).toNat =
      (Parity.all.map fun p => if (observed cw p != expected cw p) = true then p.weight.toNat else 0).sum ∧
    ∀ pk ∈ [(Parity.p1, 0), (.p2, 1), (.p4, 2), (.p8, 3)], (syndrome cw).getLsbD pk.2 = checkFails cw pk.1

/-- 42_corrector.md section 2: the closed form of the syndrome, the spec's inference. -/
def Obligations.SyndromeIsXorOfSetPositions : Prop :=
  ∀ cw : Wide, syndrome cw = xorOfSetPositions cw

/-- 42_corrector.md section 2, the spec's inference: a flip at a position 1 to 12 moves the syndrome by that
position, a flip of bit 0, 13, 14 or 15 leaves it; and the two together give `syndrome(0) = 0` its place. -/
def Obligations.FlipMovesTheSyndromeByItsPosition : Prop :=
  syndrome 0#16 = 0#4 ∧
  ∀ (cw : Wide) (b : Fin 16), syndrome (flipBit cw b) =
    if 1 ≤ b.val ∧ b.val ≤ 12 then syndrome cw ^^^ BitVec.ofNat 4 b.val else syndrome cw

/-- R89: single-error correction and the no-error case, for every valid codeword and every position 1 to 12. -/
def Obligations.SingleErrorIsCorrected : Prop :=
  ∀ v : Wide, ValidCodeword v →
    correct v = (v, 0#4) ∧
    ∀ b : Fin 16, 1 ≤ b.val → b.val ≤ 12 → correct (flipBit v b) = (v, BitVec.ofNat 4 b.val)

/-- 42_corrector.md section 2, the spec's inference (R91 (c) and (d)): what a second correction finds. -/
def Obligations.SecondCorrection : Prop :=
  ∀ cw : Wide,
    ((syndrome cw).toNat ≤ 12 → ValidCodeword (correct cw).1 ∧ correct (correct cw).1 = ((correct cw).1, 0#4)) ∧
    (13 ≤ (syndrome cw).toNat → correct (correct cw).1 = (cw, syndrome cw))

/-- 42_corrector.md section 2 (R90): two errors in a valid codeword give the syndrome `b1 ^ b2`, never 0, and leave
`COR` a completed command. -/
def Obligations.TwoErrorsAreProcessedNotDetected : Prop :=
  ∀ (v : Wide) (b1 b2 : Fin 16), ValidCodeword v → 1 ≤ b1.val → b1.val ≤ 12 → 1 ≤ b2.val → b2.val ≤ 12 → b1 ≠ b2 →
    syndrome (flipBit (flipBit v b1) b2) = BitVec.ofNat 4 b1.val ^^^ BitVec.ofNat 4 b2.val ∧
    syndrome (flipBit (flipBit v b1) b2) ≠ 0#4 ∧
    ∀ s : State, s.vw = true → s.cw = flipBit (flipBit v b1) b2 → ∃ t val,
      exec .cor s = .next t ∧ t.response = some ⟨.ok, val⟩

/-- R94: bit by bit. -/
def Obligations.ExtractorCopiesTheEightDataBits : Prop :=
  ∀ cw : Wide,
    (toCharacter cw).getLsbD 0 = cw.getLsbD 3 ∧ (toCharacter cw).getLsbD 1 = cw.getLsbD 5 ∧
    (toCharacter cw).getLsbD 2 = cw.getLsbD 6 ∧ (toCharacter cw).getLsbD 3 = cw.getLsbD 7 ∧
    (toCharacter cw).getLsbD 4 = cw.getLsbD 9 ∧ (toCharacter cw).getLsbD 5 = cw.getLsbD 10 ∧
    (toCharacter cw).getLsbD 6 = cw.getLsbD 11 ∧ (toCharacter cw).getLsbD 7 = cw.getLsbD 12

/-- 43_extractor.md section 1, the spec's inference: the character depends on the eight data bits alone, one-to-one,
and every character is the character of some codeword. -/
def Obligations.CharacterDeterminedByDataBits : Prop :=
  (∀ cw cw' : Wide, toCharacter cw = toCharacter cw' ↔ ∀ b ∈ dataPositions, cw.getLsbD b = cw'.getLsbD b) ∧
  ∀ c : Narrow, ∃ cw : Wide, toCharacter cw = c

/-- 44_interface_ops.md section 1, the spec's inference: a valid codeword, and a valid codeword with any one of bits
0 to 15 flipped, decodes to the character the valid codeword carries. -/
def Obligations.DecodeOneRecoversTheCharacter : Prop :=
  ∀ v : Wide, ValidCodeword v →
    decodeOne v = toCharacter v ∧ ∀ b : Fin 16, decodeOne (flipBit v b) = toCharacter v

/-- 44_interface_ops.md section 1, the spec's inference: when extraction without correction gives the same
character, and that otherwise exactly one character bit differs. -/
def Obligations.InspectEqualsDecodeOneExactlyWhen : Prop :=
  ∀ raw : Wide,
    (inspect raw = decodeOne raw ↔ (syndrome raw).toNat ∈ [0, 1, 2, 4, 8, 13, 14, 15]) ∧
    (inspect raw ≠ decodeOne raw → ∃ k : Fin 8, inspect raw ^^^ decodeOne raw = 1#8 <<< k.val)

/-! ## Whole-machine rules -/

/-- 20_memory.md section 2 (R35): bits 0, 13, 14 and 15 of `CW` change in three ways only. -/
def Obligations.BitsOutsideTheCodeChangeInThreeWaysOnly : Prop :=
  ∀ (i : Instr) (s : State) (b : Nat), b ∈ [0, 13, 14, 15] → ∃ t, exec i s = .next t ∧
    (t.cw.getLsbD b ≠ s.cw.getLsbD b →
      (∃ imm, i = .ldw imm ∨ i = .dec imm ∨ i = .ins imm) ∨
      (∃ idx : BitIdx, (i = .setw idx ∨ i = .flpw idx) ∧ idx.toNat = b) ∨
      (i = .cor ∧ (syndrome s.cw).toNat = b ∧ b ≠ 0))

/-- R116, R117: every presented word is answered with exactly one status, the first that applies; a fault
carries the value 0 and changes no register and no flag; the block stands ready for the host's next input. -/
def Obligations.FaultPriorityAndEntry : Prop :=
  ∀ (s : State) (w : CmdWord) (rest : List HostInput), s.inputs = .command w :: rest →
    ∃ t r, step s = .next t ∧ t.response = some r ∧ t.inputs = rest ∧
      r.status = (match decode w with
        | .error _ => .illegal
        | .ok i => if badIndex i then .indexRange else if readsUnwritten i s then .unwritten else .ok) ∧
      (r.status ≠ .ok → r.value = 0#16 ∧ SameRegisters t s)

/-- 60_exceptions.md section 1 (R110, R120): no command faults for the content of a register: with the same flags,
the same command answers with the same status. -/
def Obligations.StatusIgnoresRegisterContents : Prop :=
  ∀ (i : Instr) (s s' : State), s.vw = s'.vw → s.vn = s'.vn → s.vs = s'.vs →
    ∃ t t' r r', exec i s = .next t ∧ exec i s' = .next t' ∧ t.response = some r ∧ t'.response = some r' ∧
      r.status = r'.status

/-- R19: which commands set which valid flag, that no command clears one, that the reset event clears them, and what
`RDST` reads in each bit. -/
def Obligations.ValidFlagsRiseAndFallAsTabled : Prop :=
  (∀ (i : Instr) (s : State), ∃ t r, exec i s = .next t ∧ t.response = some r ∧
    t.vw = (s.vw || (setsVw i && r.status == .ok)) ∧ t.vn = (s.vn || (setsVn i && r.status == .ok)) ∧
    t.vs = (s.vs || (setsVs i && r.status == .ok))) ∧
  (∀ (s : State) (rest : List HostInput), s.inputs = .reset :: rest →
    ∃ t, step s = .next t ∧ t.vw = false ∧ t.vn = false ∧ t.vs = false) ∧
  (∀ s : State, ∃ v, exec .rdst s = .next { s with response := some ⟨.ok, v⟩ } ∧ v.getLsbD 0 = s.vw ∧
    v.getLsbD 1 = s.vn ∧ v.getLsbD 2 = s.vs ∧ ∀ j : Nat, 3 ≤ j → v.getLsbD j = false)

/-- 10_state.md section 2 (R16, R17, R18, R21): the frame of every command: a register that the command is not listed
to write keeps its content, and the host's inputs to come are untouched. -/
def Obligations.RegistersWrittenOnlyByTheirCommands : Prop :=
  ∀ (i : Instr) (s : State), ∃ t, exec i s = .next t ∧
    (writesCw i = false → t.cw = s.cw) ∧ (writesCh i = false → t.ch = s.ch) ∧ (writesSyn i = false → t.syn = s.syn) ∧
    t.inputs = s.inputs ∧ t.resets = s.resets

/-- 20_memory.md section 3 (R40): a command that only reads changes no register, and repeats its response. -/
def Obligations.ReadsHaveNoSideEffect : Prop :=
  ∀ (i : Instr) (s : State), writesCw i = false → writesCh i = false → writesSyn i = false →
    ∃ r, exec i s = .next { s with response := some r } ∧
      ∀ r', exec i { s with response := r' } = .next { s with response := some r }

/-- 20_memory.md section 3 (R40): the idempotent commands, the involutions, and `COR`, whose clause is the spec's
inference. -/
def Obligations.RepeatedCommands : Prop :=
  (∀ (i : Instr) (s : State), ((∃ idx, i = .setw idx ∨ i = .setn idx) ∨ (∃ imm, i = .ldw imm ∨ i = .ins imm ∨ i = .dec imm) ∨
      (∃ imm, i = .ldn imm) ∨ i = .ext) →
    ∃ t, exec i s = .next t ∧ exec i t = .next t) ∧
  (∀ (i : Instr) (s : State), (∃ idx, i = .flpw idx ∨ i = .flpn idx) →
    ∃ t u, exec i s = .next t ∧ exec i t = .next u ∧ SameRegisters u s) ∧
  (∀ s : State, s.vw = true → ∃ t u, exec .cor s = .next t ∧ exec .cor t = .next u ∧
    (if (syndrome s.cw).toNat ≤ 12 then u.cw = t.cw else u.cw = s.cw))

/-- The invariant of `State.Inv` (10_state.md R19, 30_encoding.md R54) is kept by every step, a command's, a reset
event's and a waiting step's. -/
def Obligations.EveryStepKeepsTheInvariant : Prop :=
  ∀ s : State, s.Inv → ∃ t, step s = .next t ∧ t.Inv

/-- The reset state meets the invariant (10_state.md R29). -/
def Obligations.ResetMeetsTheInvariant : Prop :=
  State.reset.Inv

/-- 10_state.md section 2 and 70_reset_and_hazards.md section 1: what an unwritten register holds is never seen. Two
states that are the same to the host stay so at every step, whatever the host presents, resets included. -/
def Obligations.UnwrittenContentsAreNeverSeen : Prop :=
  ∀ s s' : State, SameToHost s s' → ∃ t t', step s = .next t ∧ step s' = .next t' ∧ SameToHost t t'

/-- 44_interface_ops.md section 1 (R101, the spec's inference): the document's flow `LDW`, `EXT`, `COR`, `EXT` leaves
the registers `DEC` leaves, and its responses are the as-received character, the syndrome and the corrected one. -/
def Obligations.DocumentFlowEqualsDec : Prop :=
  ∀ (s : State) (raw : Wide) (rest : List HostInput),
    s.inputs = .command (encode (.ldw raw)) :: .command (encode .ext) :: .command (encode .cor) ::
      .command (encode .ext) :: rest →
    ∃ t u, Sys2Proof.core.run 4 s = .next t ∧ t.inputs = rest ∧ exec (.dec raw) s = .next u ∧ SameRegisters t u ∧
      responsesOf 4 s = [⟨.ok, 0#16⟩, ⟨.ok, (inspect raw).setWidth 16⟩, ⟨.ok, (correct raw).2.setWidth 16⟩,
        ⟨.ok, (decodeOne raw).setWidth 16⟩]

/-- R129: a run of `n` presented words, whatever they are, ends after `n` steps with exactly `n` responses and with
what the host was going to present afterwards still to come. -/
def Obligations.RunOfCommandsGivesAsManyResponses : Prop :=
  ∀ (ws : List CmdWord) (rest : List HostInput) (s : State), s.inputs = ws.map HostInput.command ++ rest →
    ∃ t, Sys2Proof.core.run ws.length s = .next t ∧ t.inputs = rest ∧ (responsesOf ws.length s).length = ws.length

/-- 30_encoding.md section 5 (R56): the assembler accepts a line exactly when its operand is there if and only if the
format takes one and is in range; the word is `(opc << 24) | (idx << 16) | imm`, so every must-be-zero field is 0. That a
line without the operand its mnemonic takes, or with a 0 where it takes none, is rejected is the model's choice (log
entry 10, DESIGN CHOICE). -/
def Obligations.AssemblerChecksRangeAndPacksFields : Prop :=
  (∀ l : AsmLine, (∃ i, assembleLine l = .ok i) ↔
    (match l.op.format, l.operand with
      | .Z, none => True
      | .X, some n => n ≤ 15
      | .I16, some n => n ≤ 0xFFFF
      | .I8, some n => n ≤ 0xFF
      | _, _ => False)) ∧
  (∀ (l : AsmLine) (i : Instr), assembleLine l = .ok i → wellFormedWord (encode i) = true ∧
    encode i = (l.op.opcode.setWidth 32 <<< 24) |||
      (match l.op.format, l.operand with
        | .X, some n => BitVec.ofNat 32 n <<< 16
        | _, some n => BitVec.ofNat 32 n
        | _, none => 0#32))
end

