-- ==== Sys2Proof/Laws/BitField.lean ====
section
/-! SUPPORT. What the BitField primitives leave in each bit, at any width. -/

namespace Sys2Proof.Machine

theorem isBitSet_eq {n : Nat} (v : BitVec n) (i : Fin n) : isBitSet v i = v.getLsbD i.val := rfl

theorem setBit_getLsbD {n : Nat} (v : BitVec n) (i : Fin n) (j : Nat) :
    (setBit v i).getLsbD j = (v.getLsbD j || decide (j = i.val)) := by
  have hi := i.isLt
  simp only [setBit, BitVec.getLsbD_or, BitVec.getLsbD_twoPow]
  by_cases h : j = i.val
  · simp [h, hi]
  · have h' : i.val ≠ j := fun e => h e.symm
    simp [h, h']

theorem flipBit_getLsbD {n : Nat} (v : BitVec n) (i : Fin n) (j : Nat) :
    (flipBit v i).getLsbD j = (v.getLsbD j ^^ decide (j = i.val)) := by
  have hi := i.isLt
  simp only [flipBit, BitVec.getLsbD_xor, BitVec.getLsbD_twoPow]
  by_cases h : j = i.val
  · simp [h, hi]
  · have h' : i.val ≠ j := fun e => h e.symm
    simp [h, h']

theorem countBelow_succ {n : Nat} (v : BitVec n) (k : Nat) :
    countBelow v (k + 1) = countBelow v k + (v.getLsbD k).toNat := rfl

theorem countBelow_le {n : Nat} (v : BitVec n) (k : Nat) : countBelow v k ≤ k := by
  induction k with
  | zero => simp [countBelow]
  | succ k ih =>
    have := Bool.toNat_le (v.getLsbD k)
    rw [countBelow_succ]
    omega

/-- The count below `k` depends on the bits below `k` alone. -/
theorem countBelow_congr {n m : Nat} (v : BitVec n) (u : BitVec m) (k : Nat)
    (h : ∀ j < k, v.getLsbD j = u.getLsbD j) : countBelow v k = countBelow u k := by
  induction k with
  | zero => rfl
  | succ k ih =>
    rw [countBelow_succ, countBelow_succ, ih fun j hj => h j (by omega), h k (by omega)]

end Sys2Proof.Machine
end

