-- ==== Sys2Proof/Laws/Code.lean ====
section
/-! SUPPORT. The pure functions of the code, one equation each for the provers to cite. -/

namespace Sys2Proof.Machine

@[simp] theorem correct_syndrome (cw : Wide) : (correct cw).2 = syndrome cw := by
  simp only [correct]
  split <;> rfl

theorem correct_of_zero {cw : Wide} (h : syndrome cw = 0#4) : (correct cw).1 = cw := by
  simp [correct, h]

theorem correct_of_nonzero {cw : Wide} (h : syndrome cw ≠ 0#4) :
    (correct cw).1 = flipBit cw (syndrome cw).toFin := by
  simp [correct, h]

theorem syndrome_unfold (cw : Wide) :
    syndrome cw = (if checkFails cw .p1 then 1#4 else 0#4) + (if checkFails cw .p2 then 2#4 else 0#4) +
      (if checkFails cw .p4 then 4#4 else 0#4) + (if checkFails cw .p8 then 8#4 else 0#4) := by
  simp only [syndrome, Parity.all, List.foldl, Parity.weight]
  cases checkFails cw .p1 <;> cases checkFails cw .p2 <;> cases checkFails cw .p4 <;> cases checkFails cw .p8 <;> decide

end Sys2Proof.Machine
end

