-- ==== Sys2Proof/Laws/Ops.lean ====
section
/-! SUPPORT. What each shared operation can do, said once. -/

namespace Sys2Proof.Machine

@[simp] theorem complete_ok (s t : State) (v : Wide) : complete s (.ok (t, v)) = .next (respond v t) := rfl

@[simp] theorem complete_error (s : State) (f : FaultCode) : complete s (.error f) = .next (raise f s) := rfl

/-- A command ends in a next state, completed with all its writes or faulted with none. -/
theorem complete_next {s t : State} {e : Effect} (h : complete s e = .next t) :
    (∃ u v, e = .ok (u, v) ∧ t = respond v u) ∨ (∃ f, e = .error f ∧ t = raise f s) := by
  cases e with
  | ok p => exact .inl ⟨p.1, p.2, rfl, (Host.Outcome.next.inj h).symm⟩
  | error f => exact .inr ⟨f, rfl, (Host.Outcome.next.inj h).symm⟩

theorem complete_isNext (s : State) (e : Effect) : ∃ t, complete s e = .next t := by
  cases e with
  | ok p => exact ⟨_, rfl⟩
  | error f => exact ⟨_, rfl⟩

@[simp] theorem readCw_written {s : State} (h : s.vw = true) : readCw s = .ok s.cw := by simp [readCw, h]

@[simp] theorem readCw_unwritten {s : State} (h : s.vw = false) : readCw s = .error .unwritten := by simp [readCw, h]

@[simp] theorem readCh_written {s : State} (h : s.vn = true) : readCh s = .ok s.ch := by simp [readCh, h]

@[simp] theorem readCh_unwritten {s : State} (h : s.vn = false) : readCh s = .error .unwritten := by simp [readCh, h]

@[simp] theorem readSyn_written {s : State} (h : s.vs = true) : readSyn s = .ok s.syn := by simp [readSyn, h]

@[simp] theorem readSyn_unwritten {s : State} (h : s.vs = false) : readSyn s = .error .unwritten := by
  simp [readSyn, h]

theorem narrowIndex_inside {idx : BitIdx} (h : idx.toNat < 8) : narrowIndex idx = .ok ⟨idx.toNat, h⟩ := by
  simp [narrowIndex, h]

theorem narrowIndex_outside {idx : BitIdx} (h : 8 ≤ idx.toNat) : narrowIndex idx = .error .indexRange := by
  have : ¬ idx.toNat < 8 := by omega
  simp only [narrowIndex, this, dite_false]

@[simp] theorem wideIndex_val (idx : BitIdx) : (wideIndex idx).val = idx.toNat := rfl

theorem layoutIndex_some {idx : BitIdx} {k : Fin 8} (h : dataToChar (wideIndex idx) = some k) :
    layoutIndex idx = .ok k := by
  simp [layoutIndex, h]

theorem layoutIndex_none {idx : BitIdx} (h : dataToChar (wideIndex idx) = none) :
    layoutIndex idx = .error .indexRange := by
  simp [layoutIndex, h]

/-- Everything that taking the host's next input can give. -/
theorem fetch_cases (s : State) :
    (s.inputs = [] ∧ fetch s = .idle s) ∨
    (∃ rest, s.inputs = .reset :: rest ∧ fetch s = .reset { s with inputs := rest }) ∨
    (∃ w rest e, s.inputs = .command w :: rest ∧ decode w = .error e ∧
      fetch s = .illegal { s with inputs := rest }) ∨
    (∃ w rest i, s.inputs = .command w :: rest ∧ decode w = .ok i ∧
      fetch s = .instr i { s with inputs := rest }) := by
  unfold fetch
  split
  · exact .inl ⟨‹_›, rfl⟩
  · exact .inr (.inl ⟨_, ‹_›, rfl⟩)
  · rename_i w rest h
    cases hd : decode w with
    | ok i => exact .inr (.inr (.inr ⟨w, rest, i, h, hd, rfl⟩))
    | error e => exact .inr (.inr (.inl ⟨w, rest, e, h, hd, rfl⟩))

end Sys2Proof.Machine
end

