-- ==== Sys2Proof/Laws/PerInstr.lean ====
section
/-! SUPPORT. One family of lemmas per constructor: the four fields of each instruction's word
(30_encoding.md R45, R46, R48). -/

namespace Sys2Proof.Laws

/-- The fields of a packed word are the fields it was packed from. -/
theorem packWord_fields (opc : BitVec 8) (rsv : BitVec 4) (idx : BitIdx) (imm : Wide) :
    opcOf (packWord opc rsv idx imm) = opc ∧ rsvOf (packWord opc rsv idx imm) = rsv ∧
    idxOf (packWord opc rsv idx imm) = idx ∧ immOf (packWord opc rsv idx imm) = imm := by
  have bit (j : Nat) : (packWord opc rsv idx imm).getLsbD j =
      if j < 16 then imm.getLsbD j else if j < 20 then idx.getLsbD (j - 16)
      else if j < 24 then rsv.getLsbD (j - 20) else opc.getLsbD (j - 24) := by
    simp only [packWord, BitVec.getLsbD_append]
    by_cases h16 : j < 16
    · simp [h16]
    by_cases h20 : j < 20
    · have : j - 16 < 4 := by omega
      simp [h16, h20, this]
    by_cases h24 : j < 24
    · have h4 : ¬ j - 16 < 4 := by omega
      have h8 : j - 20 < 4 := by omega
      have e : j - 16 - 4 = j - 20 := by omega
      simp [h16, h20, h24, h4, h8, e]
    · have h4 : ¬ j - 16 < 4 := by omega
      have h8 : ¬ j - 16 - 4 < 4 := by omega
      have e : j - 16 - 4 - 4 = j - 24 := by omega
      simp only [h16, h20, h24, h4, h8, e, if_false]
  refine ⟨?_, ?_, ?_, ?_⟩ <;>
  · apply BitVec.eq_of_getLsbD_eq
    intro j hj
    simp only [opcOf, rsvOf, idxOf, immOf, BitVec.getLsbD_extractLsb', bit, hj, decide_true, Bool.true_and]
    split_ifs <;> first | omega | simp

/-- The word of `i` holds its row's opcode, 0 in `rsv`, and its operand in the live field, 0 in the dead ones. -/
def EncodedFields.Statement (i : Instr) : Prop :=
  opcOf (encode i) = i.op.opcode ∧ rsvOf (encode i) = 0#4 ∧ idxOf (encode i) = i.idxField ∧
  immOf (encode i) = i.immField

theorem EncodedFields.of_pack (i : Instr) : EncodedFields.Statement i := packWord_fields _ _ _ _

theorem EncodedFields.ldw (imm : Wide) : EncodedFields.Statement (.ldw imm) := EncodedFields.of_pack _
theorem EncodedFields.ldn (imm : Narrow) : EncodedFields.Statement (.ldn imm) := EncodedFields.of_pack _
theorem EncodedFields.rdw : EncodedFields.Statement .rdw := EncodedFields.of_pack _
theorem EncodedFields.rdn : EncodedFields.Statement .rdn := EncodedFields.of_pack _
theorem EncodedFields.rds : EncodedFields.Statement .rds := EncodedFields.of_pack _
theorem EncodedFields.rdst : EncodedFields.Statement .rdst := EncodedFields.of_pack _
theorem EncodedFields.tstw (idx : BitIdx) : EncodedFields.Statement (.tstw idx) := EncodedFields.of_pack _
theorem EncodedFields.setw (idx : BitIdx) : EncodedFields.Statement (.setw idx) := EncodedFields.of_pack _
theorem EncodedFields.flpw (idx : BitIdx) : EncodedFields.Statement (.flpw idx) := EncodedFields.of_pack _
theorem EncodedFields.cntw : EncodedFields.Statement .cntw := EncodedFields.of_pack _
theorem EncodedFields.tstn (idx : BitIdx) : EncodedFields.Statement (.tstn idx) := EncodedFields.of_pack _
theorem EncodedFields.setn (idx : BitIdx) : EncodedFields.Statement (.setn idx) := EncodedFields.of_pack _
theorem EncodedFields.flpn (idx : BitIdx) : EncodedFields.Statement (.flpn idx) := EncodedFields.of_pack _
theorem EncodedFields.cntn : EncodedFields.Statement .cntn := EncodedFields.of_pack _
theorem EncodedFields.map (idx : BitIdx) : EncodedFields.Statement (.map idx) := EncodedFields.of_pack _
theorem EncodedFields.cor : EncodedFields.Statement .cor := EncodedFields.of_pack _
theorem EncodedFields.ext : EncodedFields.Statement .ext := EncodedFields.of_pack _
theorem EncodedFields.dec (imm : Wide) : EncodedFields.Statement (.dec imm) := EncodedFields.of_pack _
theorem EncodedFields.ins (imm : Wide) : EncodedFields.Statement (.ins imm) := EncodedFields.of_pack _

end Sys2Proof.Laws
end

