-- ==== Sys2Proof/Laws/Run.lean ====
section
/-! SUPPORT. Unrolling a run by one step. -/

namespace Sys2Proof.Machine

/-- A run whose first step answers a next state goes on from it, on any machine behind the host's interface. -/
theorem run_succ_of_next (M : Host.Core) (k : Nat) {s t : M.State} (h : M.step s = .next t) :
    M.run (k + 1) s = M.run k t := by
  simp [Host.Core.run, h]

/-- The same for the block. -/
theorem core_run_succ (k : Nat) {s t : State} (h : step s = .next t) :
    Sys2Proof.core.run (k + 1) s = Sys2Proof.core.run k t :=
  run_succ_of_next Sys2Proof.core k h

@[simp] theorem core_run_zero (s : State) : Sys2Proof.core.run 0 s = .next s := rfl

theorem responsesOf_succ (k : Nat) {s t : State} (h : step s = .next t) :
    responsesOf (k + 1) s = t.response.toList ++ responsesOf k t := by
  simp [responsesOf, h]

end Sys2Proof.Machine
end

