-- ==== Sys2Proof/Laws/State.lean ====
section
/-! SUPPORT. What each update of State leaves in each field: no later proof unfolds a record update. -/

namespace Sys2Proof.Machine


/-! `respond` -/

@[simp] theorem respond_cw (v : Wide) (s : State) : (respond v s).cw = s.cw := rfl
@[simp] theorem respond_ch (v : Wide) (s : State) : (respond v s).ch = s.ch := rfl
@[simp] theorem respond_syn (v : Wide) (s : State) : (respond v s).syn = s.syn := rfl
@[simp] theorem respond_vw (v : Wide) (s : State) : (respond v s).vw = s.vw := rfl
@[simp] theorem respond_vn (v : Wide) (s : State) : (respond v s).vn = s.vn := rfl
@[simp] theorem respond_vs (v : Wide) (s : State) : (respond v s).vs = s.vs := rfl
@[simp] theorem respond_inputs (v : Wide) (s : State) : (respond v s).inputs = s.inputs := rfl
@[simp] theorem respond_response (v : Wide) (s : State) : (respond v s).response = some ⟨.ok, v⟩ := rfl
@[simp] theorem respond_resets (v : Wide) (s : State) : (respond v s).resets = s.resets := rfl

/-! `raise` -/

@[simp] theorem raise_cw (f : FaultCode) (s : State) : (raise f s).cw = s.cw := rfl
@[simp] theorem raise_ch (f : FaultCode) (s : State) : (raise f s).ch = s.ch := rfl
@[simp] theorem raise_syn (f : FaultCode) (s : State) : (raise f s).syn = s.syn := rfl
@[simp] theorem raise_vw (f : FaultCode) (s : State) : (raise f s).vw = s.vw := rfl
@[simp] theorem raise_vn (f : FaultCode) (s : State) : (raise f s).vn = s.vn := rfl
@[simp] theorem raise_vs (f : FaultCode) (s : State) : (raise f s).vs = s.vs := rfl
@[simp] theorem raise_inputs (f : FaultCode) (s : State) : (raise f s).inputs = s.inputs := rfl
@[simp] theorem raise_response (f : FaultCode) (s : State) : (raise f s).response = some ⟨f.status, 0#16⟩ := rfl
@[simp] theorem raise_resets (f : FaultCode) (s : State) : (raise f s).resets = s.resets := rfl

/-! `writeCw` -/

@[simp] theorem writeCw_cw (v : Wide) (s : State) : (writeCw v s).cw = v := rfl
@[simp] theorem writeCw_ch (v : Wide) (s : State) : (writeCw v s).ch = s.ch := rfl
@[simp] theorem writeCw_syn (v : Wide) (s : State) : (writeCw v s).syn = s.syn := rfl
@[simp] theorem writeCw_vw (v : Wide) (s : State) : (writeCw v s).vw = s.vw := rfl
@[simp] theorem writeCw_vn (v : Wide) (s : State) : (writeCw v s).vn = s.vn := rfl
@[simp] theorem writeCw_vs (v : Wide) (s : State) : (writeCw v s).vs = s.vs := rfl
@[simp] theorem writeCw_inputs (v : Wide) (s : State) : (writeCw v s).inputs = s.inputs := rfl
@[simp] theorem writeCw_response (v : Wide) (s : State) : (writeCw v s).response = s.response := rfl
@[simp] theorem writeCw_resets (v : Wide) (s : State) : (writeCw v s).resets = s.resets := rfl

/-! `writeCh` -/

@[simp] theorem writeCh_cw (v : Narrow) (s : State) : (writeCh v s).cw = s.cw := rfl
@[simp] theorem writeCh_ch (v : Narrow) (s : State) : (writeCh v s).ch = v := rfl
@[simp] theorem writeCh_syn (v : Narrow) (s : State) : (writeCh v s).syn = s.syn := rfl
@[simp] theorem writeCh_vw (v : Narrow) (s : State) : (writeCh v s).vw = s.vw := rfl
@[simp] theorem writeCh_vn (v : Narrow) (s : State) : (writeCh v s).vn = s.vn := rfl
@[simp] theorem writeCh_vs (v : Narrow) (s : State) : (writeCh v s).vs = s.vs := rfl
@[simp] theorem writeCh_inputs (v : Narrow) (s : State) : (writeCh v s).inputs = s.inputs := rfl
@[simp] theorem writeCh_response (v : Narrow) (s : State) : (writeCh v s).response = s.response := rfl
@[simp] theorem writeCh_resets (v : Narrow) (s : State) : (writeCh v s).resets = s.resets := rfl

/-! `writeSyn` -/

@[simp] theorem writeSyn_cw (v : Syndrome) (s : State) : (writeSyn v s).cw = s.cw := rfl
@[simp] theorem writeSyn_ch (v : Syndrome) (s : State) : (writeSyn v s).ch = s.ch := rfl
@[simp] theorem writeSyn_syn (v : Syndrome) (s : State) : (writeSyn v s).syn = v := rfl
@[simp] theorem writeSyn_vw (v : Syndrome) (s : State) : (writeSyn v s).vw = s.vw := rfl
@[simp] theorem writeSyn_vn (v : Syndrome) (s : State) : (writeSyn v s).vn = s.vn := rfl
@[simp] theorem writeSyn_vs (v : Syndrome) (s : State) : (writeSyn v s).vs = s.vs := rfl
@[simp] theorem writeSyn_inputs (v : Syndrome) (s : State) : (writeSyn v s).inputs = s.inputs := rfl
@[simp] theorem writeSyn_response (v : Syndrome) (s : State) : (writeSyn v s).response = s.response := rfl
@[simp] theorem writeSyn_resets (v : Syndrome) (s : State) : (writeSyn v s).resets = s.resets := rfl

/-! `setVw` -/

@[simp] theorem setVw_cw (s : State) : (setVw s).cw = s.cw := rfl
@[simp] theorem setVw_ch (s : State) : (setVw s).ch = s.ch := rfl
@[simp] theorem setVw_syn (s : State) : (setVw s).syn = s.syn := rfl
@[simp] theorem setVw_vw (s : State) : (setVw s).vw = true := rfl
@[simp] theorem setVw_vn (s : State) : (setVw s).vn = s.vn := rfl
@[simp] theorem setVw_vs (s : State) : (setVw s).vs = s.vs := rfl
@[simp] theorem setVw_inputs (s : State) : (setVw s).inputs = s.inputs := rfl
@[simp] theorem setVw_response (s : State) : (setVw s).response = s.response := rfl
@[simp] theorem setVw_resets (s : State) : (setVw s).resets = s.resets := rfl

/-! `setVn` -/

@[simp] theorem setVn_cw (s : State) : (setVn s).cw = s.cw := rfl
@[simp] theorem setVn_ch (s : State) : (setVn s).ch = s.ch := rfl
@[simp] theorem setVn_syn (s : State) : (setVn s).syn = s.syn := rfl
@[simp] theorem setVn_vw (s : State) : (setVn s).vw = s.vw := rfl
@[simp] theorem setVn_vn (s : State) : (setVn s).vn = true := rfl
@[simp] theorem setVn_vs (s : State) : (setVn s).vs = s.vs := rfl
@[simp] theorem setVn_inputs (s : State) : (setVn s).inputs = s.inputs := rfl
@[simp] theorem setVn_response (s : State) : (setVn s).response = s.response := rfl
@[simp] theorem setVn_resets (s : State) : (setVn s).resets = s.resets := rfl

/-! `setVs` -/

@[simp] theorem setVs_cw (s : State) : (setVs s).cw = s.cw := rfl
@[simp] theorem setVs_ch (s : State) : (setVs s).ch = s.ch := rfl
@[simp] theorem setVs_syn (s : State) : (setVs s).syn = s.syn := rfl
@[simp] theorem setVs_vw (s : State) : (setVs s).vw = s.vw := rfl
@[simp] theorem setVs_vn (s : State) : (setVs s).vn = s.vn := rfl
@[simp] theorem setVs_vs (s : State) : (setVs s).vs = true := rfl
@[simp] theorem setVs_inputs (s : State) : (setVs s).inputs = s.inputs := rfl
@[simp] theorem setVs_response (s : State) : (setVs s).response = s.response := rfl
@[simp] theorem setVs_resets (s : State) : (setVs s).resets = s.resets := rfl

/-! `waitForHost` -/

@[simp] theorem waitForHost_cw (s : State) : (waitForHost s).cw = s.cw := rfl
@[simp] theorem waitForHost_ch (s : State) : (waitForHost s).ch = s.ch := rfl
@[simp] theorem waitForHost_syn (s : State) : (waitForHost s).syn = s.syn := rfl
@[simp] theorem waitForHost_vw (s : State) : (waitForHost s).vw = s.vw := rfl
@[simp] theorem waitForHost_vn (s : State) : (waitForHost s).vn = s.vn := rfl
@[simp] theorem waitForHost_vs (s : State) : (waitForHost s).vs = s.vs := rfl
@[simp] theorem waitForHost_inputs (s : State) : (waitForHost s).inputs = s.inputs := rfl
@[simp] theorem waitForHost_response (s : State) : (waitForHost s).response = none := rfl
@[simp] theorem waitForHost_resets (s : State) : (waitForHost s).resets = s.resets := rfl

/-! `presentFirst` -/

@[simp] theorem presentFirst_cw (w : CmdWord) (s : State) : (presentFirst w s).cw = s.cw := rfl
@[simp] theorem presentFirst_ch (w : CmdWord) (s : State) : (presentFirst w s).ch = s.ch := rfl
@[simp] theorem presentFirst_syn (w : CmdWord) (s : State) : (presentFirst w s).syn = s.syn := rfl
@[simp] theorem presentFirst_vw (w : CmdWord) (s : State) : (presentFirst w s).vw = s.vw := rfl
@[simp] theorem presentFirst_vn (w : CmdWord) (s : State) : (presentFirst w s).vn = s.vn := rfl
@[simp] theorem presentFirst_vs (w : CmdWord) (s : State) : (presentFirst w s).vs = s.vs := rfl
@[simp] theorem presentFirst_inputs (w : CmdWord) (s : State) : (presentFirst w s).inputs = .command w :: s.inputs := rfl
@[simp] theorem presentFirst_response (w : CmdWord) (s : State) : (presentFirst w s).response = s.response := rfl
@[simp] theorem presentFirst_resets (w : CmdWord) (s : State) : (presentFirst w s).resets = s.resets := rfl

/-! `applyReset` -/

@[simp] theorem applyReset_cw (s : State) : (applyReset s).cw = Config.unsetCw (s.resets + 1) := rfl
@[simp] theorem applyReset_ch (s : State) : (applyReset s).ch = Config.unsetCh (s.resets + 1) := rfl
@[simp] theorem applyReset_syn (s : State) : (applyReset s).syn = Config.unsetSyn (s.resets + 1) := rfl
@[simp] theorem applyReset_vw (s : State) : (applyReset s).vw = false := rfl
@[simp] theorem applyReset_vn (s : State) : (applyReset s).vn = false := rfl
@[simp] theorem applyReset_vs (s : State) : (applyReset s).vs = false := rfl
@[simp] theorem applyReset_inputs (s : State) : (applyReset s).inputs = s.inputs := rfl
@[simp] theorem applyReset_response (s : State) : (applyReset s).response = none := rfl
@[simp] theorem applyReset_resets (s : State) : (applyReset s).resets = s.resets + 1 := rfl

end Sys2Proof.Machine
end

