-- ==== Sys2Proof/Tests/Slice0.lean ====
section
/-! SUPPORT. The model's own tests. Expected results come from spec/95_test_vectors.md (V, DV and P numbers below) and
from the examples in the command rules; none comes from running the model. Then, per statement of
Certificates/Slice0/Obligations.lean that has hypotheses, a witness that meets them. -/

namespace Sys2Proof.Tests

open Sys2Proof.Machine

/-- A small state: the registers, the flags, nothing presented, nothing put out. -/
def st (cw : Wide) (ch : Narrow) (syn : Syndrome) (vw vn vs : Bool) : State :=
  ⟨cw, ch, syn, vw, vn, vs, [], none, 0⟩

/-- Everything written. -/
def full (cw : Wide) (ch : Narrow) : State := st cw ch 0 true true true

/-- Nothing written; the bits the registers hold are a trap for a meaning that reads them. -/
def bare : State := st 0xFFFF 0xFF 0xF false false false

/-- The state with these inputs still to come. -/
def presenting (s : State) (inputs : List HostInput) : State := { s with inputs := inputs }

/-- The state after the step. -/
def after (o : Host.Outcome State Fault Refusal) : Option State :=
  match o with
  | .next t => some t
  | .fault _ => none
  | .refused _ => none

/-- The response of the step. -/
def answer (o : Host.Outcome State Fault Refusal) : Option Response := (after o).bind State.response

/-- `CW`, `CH` and `SYN` after the step. -/
def regs (o : Host.Outcome State Fault Refusal) : Option (Wide × Narrow × Syndrome) :=
  (after o).map fun t => (t.cw, t.ch, t.syn)

/-- `VW`, `VN` and `VS` after the step. -/
def flags (o : Host.Outcome State Fault Refusal) : Option (Bool × Bool × Bool) :=
  (after o).map fun t => (t.vw, t.vn, t.vs)

/-! ## Decoding: words from the rules' examples and DV1 to DV9 -/

theorem test_decode_ldw : decode 0x10000C2B = .ok (.ldw 0x0C2B) := by decide
theorem test_decode_ldn : decode 0x11000041 = .ok (.ldn 0x41) := by decide
theorem test_decode_rdw : decode 0x12000000 = .ok .rdw := by decide
theorem test_decode_rdn : decode 0x13000000 = .ok .rdn := by decide
theorem test_decode_rds : decode 0x14000000 = .ok .rds := by decide
theorem test_decode_rdst : decode 0x15000000 = .ok .rdst := by decide
theorem test_decode_tstw : decode 0x200F0000 = .ok (.tstw 15) := by decide
theorem test_decode_setw : decode 0x210B0000 = .ok (.setw 11) := by decide
theorem test_decode_flpw : decode 0x220C0000 = .ok (.flpw 12) := by decide
theorem test_decode_cntw : decode 0x23000000 = .ok .cntw := by decide
theorem test_decode_tstn : decode 0x30080000 = .ok (.tstn 8) := by decide
theorem test_decode_setn : decode 0x31060000 = .ok (.setn 6) := by decide
theorem test_decode_flpn : decode 0x32070000 = .ok (.flpn 7) := by decide
theorem test_decode_cntn : decode 0x33000000 = .ok .cntn := by decide
theorem test_decode_map : decode 0x400B0000 = .ok (.map 11) := by decide
theorem test_decode_cor : decode 0x50000000 = .ok .cor := by decide
theorem test_decode_ext : decode 0x60000000 = .ok .ext := by decide
theorem test_decode_dec : decode 0x700009D0 = .ok (.dec 0x09D0) := by decide
theorem test_decode_ins : decode 0x710009D0 = .ok (.ins 0x09D0) := by decide

/-- DV9: the illegal words. -/
theorem test_decode_illegal :
    ([0x00000000, 0xFFFFFFFF, 0x24000000, 0x72000000].all fun w => decode w == .error .unlistedOpc) = true ∧
    ([0x50000001, 0x12010000, 0x20100000, 0x30190000, 0x20070001, 0x10010990, 0x11000141].all
      fun w => decode w == .error .mustBeZero) = true := by decide

/-- The words of P1, read back from the assembly column. -/
theorem test_encode_program_p1 :
    [Instr.ldw 0x09D0, .ext, .cor, .ext, .rdw, .rds, .rdst].map encode =
      [0x100009D0, 0x60000000, 0x50000000, 0x60000000, 0x12000000, 0x14000000, 0x15000000] := by decide

theorem test_table_word : decodeTableWord 32 0x220C0000 = some (.flpw 12) ∧ decodeTableWord 32 0x24000000 = none := by
  decide

/-! ## Well-formed words: an ill-formed one for each check -/

theorem test_wellFormed_legal : wellFormedWord 0x20070000 = true ∧ wellFormedWord 0x110000FF = true := by decide
theorem test_wellFormed_opc : wellFormedWord 0x41000000 = false := by decide
theorem test_wellFormed_rsv : wellFormedWord 0x20100000 = false ∧ wellFormedWord 0x10800000 = false := by decide
theorem test_wellFormed_idx :
    wellFormedWord 0x12010000 = false ∧ wellFormedWord 0x70010000 = false ∧ wellFormedWord 0x11010000 = false := by decide
theorem test_wellFormed_imm : wellFormedWord 0x50000001 = false ∧ wellFormedWord 0x20070001 = false := by decide
theorem test_wellFormed_imm_high : wellFormedWord 0x11000100 = false := by decide

/-! ## The assembler (30_encoding.md R56) -/

theorem test_asm_line : assembleText "DEC 0x09D0 ; 'H' with bit 6 flipped" = .ok (some 0x700009D0) := by decide
theorem test_asm_long_spelling : assembleText "flipBit.n 6" = .ok (some 0x32060000) := by decide
theorem test_asm_comment_only : assembleText "; nothing" = .ok none := by decide
theorem test_asm_unknown : assembleText "cor" = .error .unknownMnemonic := by decide
theorem test_asm_not_a_number : assembleText "SETW -1" = .error .notANumber := by decide
-- The model's choice, log entry 10: R56 does not say that this line is rejected.
theorem test_asm_missing : assembleText "SETW" = .error .missingOperand := by decide
theorem test_asm_extra : assembleText "COR 1" = .error .extraOperand := by decide
theorem test_asm_range :
    assembleLine ⟨.setw, some 15⟩ = .ok (.setw 15) ∧ assembleLine ⟨.setw, some 16⟩ = .error .outOfRange ∧
    assembleLine ⟨.ldn, some 255⟩ = .ok (.ldn 255) ∧ assembleLine ⟨.ldn, some 256⟩ = .error .outOfRange ∧
    assembleLine ⟨.ldw, some 65536⟩ = .error .outOfRange := by decide

/-! ## The pure functions (V8.3 to V8.8, DV4 to DV6) -/

theorem test_popCount :
    popCount 0x0990#16 = 4 ∧ popCount 0x0C2B#16 = 6 ∧ popCount 0xFFFF#16 = 16 ∧ popCount 0x48#8 = 2 := by decide

theorem test_correct_literal : correct 0x0C2B = (0x0C6B, 6) := by decide
theorem test_correct_all_ones : correct 0xFFFF = (0xEFFF, 12) := by decide
theorem test_correct_outside : correct 0x1992 = (0x3992, 13) ∧ correct 0x1004 = (0x5004, 14) ∧
    correct 0xE117 = (0x6117, 15) := by decide
theorem test_correct_valid : correct 0x0990 = (0x0990, 0) ∧ correct 0xE001 = (0xE001, 0) := by decide
theorem test_character : toCharacter 0x0068 = 0x07 ∧ toCharacter 0xE91F = 0x41 ∧ toCharacter 0x1EE8 = 0xFF ∧
    toCharacter 0xE117 = 0x00 := by decide
theorem test_inspect_decodeOne : inspect 0x0C2B = 0x63 ∧ decodeOne 0x0C2B = 0x67 := by decide

/-! ## The commands, one step each (DV1 to DV8) -/

theorem test_ldw : answer (exec (.ldw 0xFFFF) bare) = some ⟨.ok, 0⟩ ∧
    flags (exec (.ldw 0xFFFF) bare) = some (true, false, false) := by decide
theorem test_ldw_masks_nothing : regs (exec (.ldw 0xE001) (full 0 0x12)) = some (0xE001, 0x12, 0) := by decide
theorem test_ldn : regs (exec (.ldn 0x41) (full 0x0990 0)) = some (0x0990, 0x41, 0) ∧
    flags (exec (.ldn 0x41) bare) = some (false, true, false) := by decide
theorem test_rdw : answer (exec .rdw (full 0x0990 0)) = some ⟨.ok, 0x0990⟩ := by decide
theorem test_rdw_unwritten : answer (exec .rdw (st 0 0 0 false true true)) = some ⟨.unwritten, 0⟩ := by decide
theorem test_rdn : answer (exec .rdn (full 0 0xFF)) = some ⟨.ok, 0x00FF⟩ := by decide
theorem test_rdn_unwritten : answer (exec .rdn (st 0 0xFF 0 true false true)) = some ⟨.unwritten, 0⟩ := by decide
theorem test_rds : answer (exec .rds (st 0 0 6 true true true)) = some ⟨.ok, 6⟩ := by decide
theorem test_rds_unwritten : answer (exec .rds (st 0 0 6 true true false)) = some ⟨.unwritten, 0⟩ := by decide
theorem test_rdst : answer (exec .rdst (st 0 0 0 true false true)) = some ⟨.ok, 5⟩ := by decide
theorem test_rdst_bit1 : answer (exec .rdst (st 0 0 0 false true false)) = some ⟨.ok, 2⟩ := by decide
theorem test_tstw : answer (exec (.tstw 7) (full 0x0990 0)) = some ⟨.ok, 1⟩ ∧
    answer (exec (.tstw 6) (full 0x0990 0)) = some ⟨.ok, 0⟩ := by decide
theorem test_tstw_ends : answer (exec (.tstw 15) (full 0x8001 0)) = some ⟨.ok, 1⟩ ∧
    answer (exec (.tstw 0) (full 0x8001 0)) = some ⟨.ok, 1⟩ := by decide
theorem test_setw : regs (exec (.setw 3) (full 0 0)) = some (0x0008, 0, 0) ∧
    regs (exec (.setw 3) (full 0x0008 0)) = some (0x0008, 0, 0) := by decide
theorem test_setw_top : regs (exec (.setw 15) (full 0 0)) = some (0x8000, 0, 0) := by decide
theorem test_flpw : regs (exec (.flpw 6) (full 0x0990 0)) = some (0x09D0, 0, 0) ∧
    regs (exec (.flpw 6) (full 0x09D0 0)) = some (0x0990, 0, 0) := by decide
theorem test_flpw_bit0 : regs (exec (.flpw 0) (full 0x0990 0)) = some (0x0991, 0, 0) := by decide
theorem test_cntw : answer (exec .cntw (full 0xFFFF 0)) = some ⟨.ok, 0x0010⟩ := by decide
theorem test_cntw_unwritten : answer (exec .cntw bare) = some ⟨.unwritten, 0⟩ := by decide
theorem test_tstn : answer (exec (.tstn 7) (full 0 0x80)) = some ⟨.ok, 1⟩ := by decide
theorem test_tstn_range : answer (exec (.tstn 8) (full 0 0x48)) = some ⟨.indexRange, 0⟩ ∧
    answer (exec (.tstn 9) bare) = some ⟨.indexRange, 0⟩ := by decide
theorem test_setn : regs (exec (.setn 6) (full 0x0990 0)) = some (0x0990, 0x40, 0) := by decide
theorem test_setn_faults : answer (exec (.setn 8) bare) = some ⟨.indexRange, 0⟩ ∧
    answer (exec (.setn 7) bare) = some ⟨.unwritten, 0⟩ := by decide
theorem test_flpn : regs (exec (.flpn 6) (full 0 0x41)) = some (0, 0x01, 0) := by decide
theorem test_flpn_top : regs (exec (.flpn 7) (full 0 0x7F)) = some (0, 0xFF, 0) := by decide
theorem test_cntn : answer (exec .cntn (full 0 0xFF)) = some ⟨.ok, 8⟩ := by decide
theorem test_map : answer (exec (.map 12) bare) = some ⟨.ok, 7⟩ ∧ answer (exec (.map 3) bare) = some ⟨.ok, 0⟩ := by decide
theorem test_map_range : answer (exec (.map 8) bare) = some ⟨.indexRange, 0⟩ ∧
    answer (exec (.map 13) bare) = some ⟨.indexRange, 0⟩ := by decide
theorem test_cor : answer (exec .cor (full 0x09D0 0x4C)) = some ⟨.ok, 6⟩ ∧
    regs (exec .cor (full 0x09D0 0x4C)) = some (0x0990, 0x4C, 6) := by decide
theorem test_cor_zero_writes_syn : regs (exec .cor (st 0x0908 0 8 true false true)) = some (0x0908, 0, 0) ∧
    flags (exec .cor (st 0x0908 0 8 true false false)) = some (true, false, true) := by decide
theorem test_ext : regs (exec .ext (st 0x09D0 0xFF 3 true false false)) = some (0x09D0, 0x4C, 3) ∧
    flags (exec .ext (st 0x09D0 0xFF 3 true false false)) = some (true, true, false) := by decide
theorem test_dec : answer (exec (.dec 0x1992) bare) = some ⟨.ok, 0x00C8⟩ ∧
    regs (exec (.dec 0x1992) bare) = some (0x3992, 0xC8, 13) := by decide
theorem test_dec_flags : flags (exec (.dec 0xFFFF) bare) = some (true, true, true) := by decide
theorem test_ins : regs (exec (.ins 0x0C2B) (st 0 0 9 false false true)) = some (0x0C2B, 0x63, 9) ∧
    flags (exec (.ins 0x0C2B) bare) = some (true, true, false) := by decide

/-! ## The step -/

theorem test_step_illegal_changes_nothing :
    regs (step (presenting (full 0x0990 0x48) [.command 0x30190000])) = some (0x0990, 0x48, 0) ∧
    answer (step (presenting (full 0x0990 0x48) [.command 0x30190000])) = some ⟨.illegal, 0⟩ := by decide
theorem test_step_reset : flags (step (presenting (full 0x0990 0x48) [.reset])) = some (false, false, false) ∧
    answer (step (presenting (full 0x0990 0x48) [.reset])) = none := by decide
theorem test_step_waits : regs (step (full 0x0990 0x48)) = some (0x0990, 0x48, 0) := by decide
theorem test_step_takes_one :
    (after (step (presenting bare [.command 0x10000990, .command 0x50000000]))).map State.inputs =
      some [.command 0x50000000] := by decide
theorem test_first_after_reset : answer (step (State.reset.withFetchWord 32 0x700009D0)) = some ⟨.ok, 0x0048⟩ ∧
    answer (step (State.reset.withFetchWord 32 0x12000000)) = some ⟨.unwritten, 0⟩ := by decide

/-! ## Witnesses: each statement's hypotheses, met together -/

theorem witness_OnlyEncodedWordsDecode : decode 0x400C0000 = .ok (.map 12) := by decide
theorem witness_WordIsCommandIffRowMatches :
    (⟨.cor, 0x50000000, 0xFFFFFFFF⟩ : Row) ∈ opcodeTable ∧ (0x50000000#32 &&& 0xFFFFFFFF#32 = 0x50000000#32) := by decide
theorem witness_UnmatchedWordIsIllegal :
    (presenting bare [.command 0x24000000]).inputs = [.command 0x24000000] ∧
    ∀ r ∈ opcodeTable, 0x24000000#32 &&& r.mask ≠ r.pattern := by decide
theorem witness_StepRunsTheDecodedCommand :
    (presenting bare [.command 0x50000000, .reset]).inputs = .command 0x50000000 :: [.reset] ∧
    decode 0x50000000 = .ok .cor := by decide
theorem witness_StepWithoutCommandPutsNothingOut :
    bare.inputs = [] ∧ (presenting bare [.reset]).inputs = .reset :: [] := by decide
theorem witness_ResetEventClearsFlags :
    (presenting (full 0x0990 0x48) [.reset]).inputs = .reset :: [] ∧
    (readsCw (.tstw 15) || readsCh (.tstw 15) || readsSyn (.tstw 15)) = true ∧ badIndex (.tstw 15) = false ∧
    (readsCw (.setn 7) || readsCh (.setn 7) || readsSyn (.setn 7)) = true ∧ badIndex (.setn 7) = false ∧
    (readsCw .rds || readsCh .rds || readsSyn .rds) = true ∧ badIndex .rds = false := by decide
theorem witness_LdnLoadsCharacterRegister :
    (presenting bare [.command 0x11000141]).inputs = .command 0x11000141 :: [] ∧
    BitVec.extractLsb' 24 8 0x11000141#32 = 0x11#8 ∧ BitVec.extractLsb' 8 8 0x11000141#32 ≠ 0#8 := by decide
theorem witness_RdwReadsCodewordRegister : (full 0x0990 0).vw = true ∧ bare.vw = false := by decide
theorem witness_RdnReadsCharacterRegister : (full 0 0x48).vn = true ∧ bare.vn = false := by decide
theorem witness_RdsReadsSyndromeRegister : (full 0 0).vs = true ∧ bare.vs = false := by decide
theorem witness_TstwTestsWideBit : (full 0x8001 0).vw = true ∧ bare.vw = false := by decide
theorem witness_SetwSetsWideBit : (full 0x7FFF 0).vw = true ∧ bare.vw = false := by decide
theorem witness_FlpwFlipsWideBit : (full 0x0990 0).vw = true ∧ bare.vw = false := by decide
theorem witness_CntwCountsWideBits : (full 0xFFFF 0).vw = true ∧ bare.vw = false := by decide
theorem witness_TstnTestsNarrowBit :
    8 ≤ (8#4).toNat ∧ 8 ≤ (15#4).toNat ∧ (7#4).toNat < 8 ∧ bare.vn = false ∧ (full 0 0x80).vn = true := by decide
theorem witness_SetnSetsNarrowBit :
    8 ≤ (8#4).toNat ∧ (7#4).toNat < 8 ∧ (0#4).toNat < 8 ∧ bare.vn = false ∧ (full 0 0).vn = true := by decide
theorem witness_FlpnFlipsNarrowBit :
    8 ≤ (8#4).toNat ∧ (7#4).toNat < 8 ∧ (0#4).toNat < 8 ∧ bare.vn = false ∧ (full 0 0x7F).vn = true := by decide
theorem witness_CntnCountsNarrowBits : (full 0 0xFF).vn = true ∧ bare.vn = false := by decide
theorem witness_MapLooksUpLayout :
    (12#4, 7#16) ∈ [(3#4, 0#16), (5#4, 1#16), (6#4, 2#16), (7#4, 3#16), (9#4, 4#16), (10#4, 5#16), (11#4, 6#16), (12#4, 7#16)] ∧
    13#4 ∈ [0#4, 1#4, 2#4, 4#4, 8#4, 13#4, 14#4, 15#4] := by decide
theorem witness_CorCorrectsCodewordRegister :
    (full 0xFFFF 0).vw = true ∧ (correct (full 0xFFFF 0).cw).2.toNat = 12 ∧
    (full 0x1992 0).vw = true ∧ (correct (full 0x1992 0).cw).2.toNat = 13 ∧ bare.vw = false := by decide
theorem witness_ExtExtractsCharacter : (st 0x09D0 0 0 true false false).vw = true ∧ bare.vw = false := by decide
theorem witness_PrimitivesAreTheirFormulas : 8 ∈ [8, 16] ∧ 16 ∈ [8, 16] ∧ (3 : Nat) ≠ (15 : Fin 16).val := by decide
theorem witness_SetBitSetsAndClearsNothing : 8 ∈ [8, 16] ∧ 16 ∈ [8, 16] ∧ (0 : Fin 8) ≠ 7 := by decide
theorem witness_FlipBitIsAnInvolution : 8 ∈ [8, 16] ∧ 16 ∈ [8, 16] ∧ (0 : Fin 16) ≠ 15 := by decide
/-- V8.3: reversing the bit order takes `0x0C2B` to `0xD430`. -/
theorem witness_PopCountLaws : ∀ i : Fin 16, isBitSet 0xD430#16 i = isBitSet 0x0C2B#16 (Fin.revPerm i) := by decide
theorem witness_CorrectFlipsTheBitTheSyndromeNames : syndrome 0x0990 = 0#4 := by decide
theorem witness_SyndromeIsSumOfFailingWeights :
    (Parity.p8, 3) ∈ [(Parity.p1, 0), (.p2, 1), (.p4, 2), (.p8, 3)] := by decide
theorem witness_SingleErrorIsCorrected :
    ValidCodeword 0x0990 ∧ 1 ≤ (1 : Fin 16).val ∧ (1 : Fin 16).val ≤ 12 ∧ 1 ≤ (12 : Fin 16).val ∧ (12 : Fin 16).val ≤ 12 := by
  decide
theorem witness_SecondCorrection :
    (syndrome 0x0990).toNat = 0 ∧ (syndrome 0xFFFF).toNat = 12 ∧ (syndrome 0x1992).toNat = 13 ∧
    (syndrome 0x1008).toNat = 15 := by decide
theorem witness_TwoErrorsAreProcessedNotDetected :
    ValidCodeword 0x0990 ∧ (12 : Fin 16) ≠ 1 ∧ flipBit (flipBit 0x0990#16 12) 1 = 0x1992#16 ∧
    (full 0x1992 0).vw = true ∧ (full 0x1992 0).cw = flipBit (flipBit 0x0990#16 12) 1 := by decide
theorem witness_CharacterDeterminedByDataBits :
    toCharacter 0x0908 = toCharacter 0xE91F ∧
    ∀ b ∈ dataPositions, BitVec.getLsbD 0x0908#16 b = BitVec.getLsbD 0xE91F#16 b := by decide
theorem witness_DecodeOneRecoversTheCharacter : ValidCodeword 0x0908 ∧ ValidCodeword 0xE991 := by decide
theorem witness_InspectEqualsDecodeOneExactlyWhen :
    inspect 0x0C2B ≠ decodeOne 0x0C2B ∧ inspect 0x0992 = decodeOne 0x0992 ∧ inspect 0x1992 = decodeOne 0x1992 := by decide
theorem witness_BitsOutsideTheCodeChangeInThreeWaysOnly :
    regs (exec .cor (full 0x1992 0)) = some (0x3992, 0, 13) ∧ 13 ∈ [0, 13, 14, 15] ∧
    regs (exec (.flpw 0) (full 0x0990 0)) = some (0x0991, 0, 0) ∧ 0 ∈ [0, 13, 14, 15] ∧
    regs (exec (.ldw 0x8000) (full 0 0)) = some (0x8000, 0, 0) := by decide
theorem witness_FaultPriorityAndEntry :
    (presenting bare [.command 0x30190000]).inputs = .command 0x30190000 :: [] ∧
    decode 0x30190000 = .error .mustBeZero ∧ badIndex (.tstn 9) = true ∧ readsUnwritten (.tstn 7) bare = true := by decide
theorem witness_StatusIgnoresRegisterContents :
    (full 0x0990 0).vw = (full 0x1992 0xFF).vw ∧ (full 0x0990 0).vn = (full 0x1992 0xFF).vn ∧
    (full 0x0990 0).vs = (full 0x1992 0xFF).vs ∧ full 0x0990 0 ≠ full 0x1992 0xFF := by decide
theorem witness_ValidFlagsRiseAndFallAsTabled : (presenting (full 0 0) [.reset]).inputs = .reset :: [] := by decide
theorem witness_RegistersWrittenOnlyByTheirCommands :
    writesCw .ext = false ∧ writesCh .cor = false ∧ writesSyn (.ins 0x0990) = false := by decide
theorem witness_ReadsHaveNoSideEffect :
    writesCw (.map 4) = false ∧ writesCh (.map 4) = false ∧ writesSyn (.map 4) = false ∧
    writesCw .rdst = false ∧ writesCh .rdst = false ∧ writesSyn .rdst = false := by decide
theorem witness_RepeatedCommands :
    (full 0x0990 0).vw = true ∧ (syndrome (full 0xFFFF 0).cw).toNat = 12 ∧ (full 0xFFFF 0).vw = true ∧
    (syndrome (full 0x1992 0).cw).toNat = 13 ∧ (full 0x1992 0).vw = true := by decide
theorem witness_EveryStepKeepsTheInvariant :
    (full 0x0990 0x48).Inv ∧ (st 0x0990 0 0 true false false).Inv ∧
    State.Inv { bare with response := some ⟨.unwritten, 0#16⟩ } := by decide
theorem witness_UnwrittenContentsAreNeverSeen :
    SameToHost (st 0x0000 0x12 3 false true false) (st 0xFFFF 0x12 7 false true false) := by decide
theorem witness_DocumentFlowEqualsDec :
    (presenting bare [.command (encode (.ldw 0x09D0)), .command (encode .ext), .command (encode .cor),
      .command (encode .ext), .reset]).inputs =
    .command (encode (.ldw 0x09D0)) :: .command (encode .ext) :: .command (encode .cor) :: .command (encode .ext) ::
      [.reset] := by decide
theorem witness_RunOfCommandsGivesAsManyResponses :
    (presenting bare [.command 0x50000000, .command 0x00000000, .reset]).inputs =
      [0x50000000, 0x00000000].map HostInput.command ++ [.reset] := by decide
theorem witness_AssemblerChecksRangeAndPacksFields :
    assembleLine ⟨.flpw, some 15⟩ = .ok (.flpw 15) ∧ assembleLine ⟨.cor, none⟩ = .ok .cor := by decide

end Sys2Proof.Tests
end

section
/-! PROOFS. How a command ends, said once for all 19 commands (60_exceptions.md R117): it raises a fault with nothing
written, or it completes with exactly the writes of `afterWrites`. -/

namespace Sys2Proof.Machine

@[simp] theorem FaultCode.status_ne_ok (f : FaultCode) : f.status ≠ .ok := by cases f <;> decide

/-- The command's pseudocode raises, or its writes leave `t`. -/
inductive EndsIn (t : State) : Effect → Prop
  | ok (v : Wide) : EndsIn t (.ok (t, v))
  | error (f : FaultCode) : EndsIn t (.error f)

theorem EndsIn.bind {α : Type} {t : State} {m : Except FaultCode α} {k : α → Effect}
    (h : ∀ a, m = .ok a → EndsIn t (k a)) : EndsIn t (m >>= k) := by
  cases m with
  | ok a => exact h a rfl
  | error f => exact .error f

theorem EndsIn.bind_readCw {s t : State} {k : Wide → Effect} (h : EndsIn t (k s.cw)) :
    EndsIn t (readCw s >>= k) := by
  cases hv : s.vw with
  | true => rw [readCw_written hv]; exact h
  | false => rw [readCw_unwritten hv]; exact .error _

theorem EndsIn.bind_readCh {s t : State} {k : Narrow → Effect} (h : EndsIn t (k s.ch)) :
    EndsIn t (readCh s >>= k) := by
  cases hv : s.vn with
  | true => rw [readCh_written hv]; exact h
  | false => rw [readCh_unwritten hv]; exact .error _

theorem EndsIn.bind_narrowIndex {t : State} {idx : BitIdx} {k : Fin 8 → Effect}
    (h : ∀ hi : idx.toNat < 8, EndsIn t (k ⟨idx.toNat, hi⟩)) : EndsIn t (narrowIndex idx >>= k) := by
  by_cases hi : idx.toNat < 8
  · rw [narrowIndex_inside hi]; exact h hi
  · rw [narrowIndex_outside (Nat.le_of_not_lt hi)]; exact .error _

/-- The outcome is a fault taken in `s`, or a completion that leaves `t`. -/
def FaultsOrCompletes (s t : State) (o : Host.Outcome State Fault Refusal) : Prop :=
  (∃ f, o = .next (raise f s)) ∨ ∃ v, o = .next (respond v t)

theorem EndsIn.complete (s : State) {t : State} {e : Effect} (h : EndsIn t e) :
    FaultsOrCompletes s t (complete s e) := by
  cases h with
  | ok v => exact .inr ⟨v, rfl⟩
  | error f => exact .inl ⟨f, rfl⟩

/-- What a completed command has written, its response aside. -/
def afterWrites (i : Instr) (s : State) : State :=
  match i with
  | .ldw imm => setVw (writeCw imm s)
  | .ldn imm => setVn (writeCh imm s)
  | .setw idx => writeCw (s.cw ||| BitVec.twoPow 16 idx.toNat) s
  | .flpw idx => writeCw (s.cw ^^^ BitVec.twoPow 16 idx.toNat) s
  | .setn idx => writeCh (s.ch ||| BitVec.twoPow 8 idx.toNat) s
  | .flpn idx => writeCh (s.ch ^^^ BitVec.twoPow 8 idx.toNat) s
  | .cor => setVs (writeSyn (correct s.cw).2 (writeCw (correct s.cw).1 s))
  | .ext => setVn (writeCh (toCharacter s.cw) s)
  | .dec imm =>
    setVn (setVs (setVw (writeCh (decodeOne imm) (writeSyn (correct imm).2 (writeCw (correct imm).1 s)))))
  | .ins imm => setVn (setVw (writeCh (inspect imm) (writeCw imm s)))
  | .rdw | .rdn | .rds | .rdst | .tstw _ | .cntw | .tstn _ | .cntn | .map _ => s

/-- Everything a command can do. -/
theorem exec_faultsOrCompletes (i : Instr) (s : State) : FaultsOrCompletes s (afterWrites i s) (exec i s) := by
  cases i with
  | ldw _ | ldn _ | rdst | dec _ | ins _ => exact EndsIn.complete s (.ok _)
  | rdw | tstw _ | setw _ | flpw _ | cntw | cor | ext => exact EndsIn.complete s (.bind_readCw (.ok _))
  | rdn | cntn => exact EndsIn.complete s (.bind_readCh (.ok _))
  | rds | map _ => exact EndsIn.complete s (.bind fun _ _ => .ok _)
  | tstn _ | setn _ | flpn _ => exact EndsIn.complete s (.bind_narrowIndex fun _ => .bind_readCh (.ok _))

end Sys2Proof.Machine
end

section
/-! PROOFS. The valid flags (10_state.md R19). -/

namespace Sys2Proof.Machine

@[simp] theorem afterWrites_vw (i : Instr) (s : State) : (afterWrites i s).vw = (s.vw || setsVw i) := by
  cases i <;> simp [afterWrites, setsVw]

@[simp] theorem afterWrites_vn (i : Instr) (s : State) : (afterWrites i s).vn = (s.vn || setsVn i) := by
  cases i <;> simp [afterWrites, setsVn]

@[simp] theorem afterWrites_vs (i : Instr) (s : State) : (afterWrites i s).vs = (s.vs || setsVs i) := by
  cases i <;> simp [afterWrites, setsVs]

theorem step_of_reset {s : State} {rest : List HostInput} (h : s.inputs = .reset :: rest) :
    step s = .next (applyReset { s with inputs := rest }) := by
  simp [step, fetch, h]

theorem statusWord_getLsbD (s : State) (j : Nat) :
    (statusWord s).getLsbD j = if j = 0 then s.vw else if j = 1 then s.vn else decide (j = 2) && s.vs := by
  simp only [statusWord, BitVec.getLsbD_setWidth, BitVec.getLsbD_append, BitVec.getLsbD_ofBool]
  match j with
  | 0 | 1 | 2 | j + 3 => simp

theorem statusWord_high {s : State} {j : Nat} (h : 3 ≤ j) : (statusWord s).getLsbD j = false := by
  rw [statusWord, BitVec.getLsbD_setWidth, BitVec.getLsbD_of_ge _ _ h, Bool.and_false]

/-- Settles O49: a fault keeps the flags, a completion leaves those of `afterWrites`; the reset event clears them, and
`RDST` responds with `statusWord`. -/
theorem validFlagsRiseAndFallAsTabled : Obligations.ValidFlagsRiseAndFallAsTabled := by
  refine ⟨fun i s => ?_, fun s rest h => ⟨_, step_of_reset h, rfl, rfl, rfl⟩, fun s => ⟨statusWord s, rfl, ?_⟩⟩
  · obtain ⟨f, h⟩ | ⟨v, h⟩ := exec_faultsOrCompletes i s
    · exact ⟨raise f s, _, h, raise_response f s, by simp⟩
    · exact ⟨respond v (afterWrites i s), _, h, respond_response v _, by simp⟩
  · exact ⟨statusWord_getLsbD s 0, statusWord_getLsbD s 1, statusWord_getLsbD s 2, fun _ => statusWord_high⟩

end Sys2Proof.Machine
end

section
/-! PROOFS. The opcode map and the opcode table (30_encoding.md R45 to R49): a word is the four fields it holds, an
opcode selects at most one command, and a row covers a word exactly when the decoder reads the row's command from it. -/

namespace Sys2Proof

/-- A command word is the four fields it holds (R45). -/
theorem packWord_of_fields (w : CmdWord) : packWord (opcOf w) (rsvOf w) (idxOf w) (immOf w) = w := by
  have h20 : opcOf w ++ rsvOf w = w.extractLsb' 20 12 := BitVec.extractLsb'_append_extractLsb'_eq_extractLsb' rfl
  have h16 : w.extractLsb' 20 12 ++ idxOf w = w.extractLsb' 16 16 :=
    BitVec.extractLsb'_append_extractLsb'_eq_extractLsb' rfl
  have h0 : w.extractLsb' 16 16 ++ immOf w = w := BitVec.extractLsb'_append_extractLsb'
  rw [packWord, h20, h16, h0]

/-- Two command words are equal when their four fields are. -/
theorem word_eq_iff_fields {w v : CmdWord} :
    w = v ↔ opcOf w = opcOf v ∧ rsvOf w = rsvOf v ∧ idxOf w = idxOf v ∧ immOf w = immOf v := by
  constructor
  · rintro rfl
    exact ⟨rfl, rfl, rfl, rfl⟩
  · rintro ⟨hopc, hrsv, hidx, himm⟩
    rw [← packWord_of_fields w, hopc, hrsv, hidx, himm, packWord_of_fields]

/-! The fields of a masked word. -/

@[simp] theorem opcOf_and (w m : CmdWord) : opcOf (w &&& m) = opcOf w &&& opcOf m := BitVec.extractLsb'_and
@[simp] theorem rsvOf_and (w m : CmdWord) : rsvOf (w &&& m) = rsvOf w &&& rsvOf m := BitVec.extractLsb'_and
@[simp] theorem idxOf_and (w m : CmdWord) : idxOf (w &&& m) = idxOf w &&& idxOf m := BitVec.extractLsb'_and
@[simp] theorem immOf_and (w m : CmdWord) : immOf (w &&& m) = immOf w &&& immOf m := BitVec.extractLsb'_and

/-- Every mask keeps the whole of `opc` and `rsv` (R49). -/
theorem Format.mask_opc_rsv (f : Format) : opcOf f.mask = BitVec.allOnes 8 ∧ rsvOf f.mask = BitVec.allOnes 4 := by
  cases f <;> decide

/-- The row of a command in the opcode table (R49). -/
def Op.row (op : Op) : Row := ⟨op, op.opcode.setWidth 32 <<< 24, op.format.mask⟩

theorem Op.mem_all (op : Op) : op ∈ Op.all := by cases op <;> decide

theorem mem_opcodeTable {r : Row} : r ∈ opcodeTable ↔ ∃ op : Op, op.row = r := by
  simp [opcodeTable, Op.row, Op.mem_all]

/-- A pattern holds the row's opcode and 0 in every other field (R49). -/
theorem Op.pattern_fields (op : Op) :
    opcOf op.row.pattern = op.opcode ∧ rsvOf op.row.pattern = 0#4 ∧ idxOf op.row.pattern = 0#4 ∧
    immOf op.row.pattern = 0#16 := by
  cases op <;> decide

/-- An `imm8` command's `imm[15:8]` is what its mask keeps of `imm` (R46, R49). -/
theorem highByte_eq_zero_iff (v : Wide) : v.extractLsb' 8 8 = 0#8 ↔ v &&& 0xFF00#16 = 0#16 := by
  rw [← BitVec.extractLsb'_append_extractLsb' (w := 8) (len := 8) (x := v),
    show 0xFF00#16 = BitVec.allOnes 8 ++ 0#8 by decide, BitVec.and_append, BitVec.extractLsb'_append_eq_left,
    BitVec.and_allOnes, BitVec.and_zero, show 0#16 = 0#8 ++ 0#8 by decide, BitVec.append_left_inj]

/-- The fields a format leaves dead are what its mask keeps of `rsv`, `idx` and `imm` (R46, R49). -/
theorem deadFieldsZero_iff_mask (f : Format) (w : CmdWord) :
    deadFieldsZero f w = true ↔
      rsvOf w = 0#4 ∧ idxOf w &&& idxOf f.mask = 0#4 ∧ immOf w &&& immOf f.mask = 0#16 := by
  cases f with
  | Z =>
    have hidx : idxOf Format.Z.mask = BitVec.allOnes 4 := by decide
    have himm : immOf Format.Z.mask = BitVec.allOnes 16 := by decide
    simp [-BitVec.reduceAllOnes, hidx, himm, deadFieldsZero]
  | X =>
    have hidx : idxOf Format.X.mask = 0#4 := by decide
    have himm : immOf Format.X.mask = BitVec.allOnes 16 := by decide
    simp [-BitVec.reduceAllOnes, hidx, himm, deadFieldsZero]
  | I16 =>
    have hidx : idxOf Format.I16.mask = BitVec.allOnes 4 := by decide
    have himm : immOf Format.I16.mask = 0#16 := by decide
    simp [-BitVec.reduceAllOnes, hidx, himm, deadFieldsZero]
  | I8 =>
    have hidx : idxOf Format.I8.mask = BitVec.allOnes 4 := by decide
    have himm : immOf Format.I8.mask = 0xFF00#16 := by decide
    simp [-BitVec.reduceAllOnes, hidx, himm, deadFieldsZero, highByte_eq_zero_iff]

/-- The row of `op` matches the word: its opcode is that of `op`, and its dead fields are 0 (R45 to R49). -/
theorem row_matches_iff (op : Op) (w : CmdWord) :
    w &&& op.row.mask = op.row.pattern ↔ op.opcode = opcOf w ∧ deadFieldsZero op.format w = true := by
  obtain ⟨hopc, hrsv, hidx, himm⟩ := op.pattern_fields
  obtain ⟨mopc, mrsv⟩ := op.format.mask_opc_rsv
  have hmask : op.row.mask = op.format.mask := rfl
  rw [word_eq_iff_fields, deadFieldsZero_iff_mask, opcOf_and, rsvOf_and, idxOf_and, immOf_and, hopc, hrsv, hidx, himm,
    hmask, mopc, mrsv, BitVec.and_allOnes, BitVec.and_allOnes, eq_comm (a := opcOf w)]

/-- An opcode selects the one command that has it (R48). -/
theorem Op.ofOpcode?_eq_some_iff {opc : BitVec 8} {op : Op} : Op.ofOpcode? opc = some op ↔ op.opcode = opc := by
  constructor
  · intro h
    exact eq_of_beq (List.find?_some (p := fun op : Op => op.opcode == opc) h)
  · rintro rfl
    cases op <;> rfl

theorem Op.opcode_injective : Function.Injective Op.opcode := fun _ _ h =>
  Option.some.inj ((Op.ofOpcode?_eq_some_iff.mpr h).symm.trans (Op.ofOpcode?_eq_some_iff.mpr rfl))

@[simp] theorem Op.instr_op (op : Op) (idx : BitIdx) (imm : Wide) : (op.instr idx imm).op = op := by
  cases op <;> rfl

/-- What a decoded word looks like: it holds the opcode of the instruction's row and 0 in the dead fields, and the
operand is read from the field that is live. -/
theorem decode_eq_ok_iff {w : CmdWord} {i : Instr} :
    decode w = .ok i ↔
      i.op.opcode = opcOf w ∧ deadFieldsZero i.op.format w = true ∧ i.op.instr (idxOf w) (immOf w) = i := by
  constructor
  · intro h
    unfold decode at h
    split at h
    · cases h
    · rename_i op hop
      split at h
      · rename_i hdead
        cases h
        simpa using ⟨Op.ofOpcode?_eq_some_iff.mp hop, hdead⟩
      · cases h
  · rintro ⟨hopc, hdead, hi⟩
    simp [decode, Op.ofOpcode?_eq_some_iff.mpr hopc, hdead, hi]

/-- A word decodes to an instruction of `op` exactly when its opcode is that of `op` and its dead fields are 0. -/
theorem decode_op_iff (op : Op) (w : CmdWord) :
    (∃ i, decode w = .ok i ∧ i.op = op) ↔ op.opcode = opcOf w ∧ deadFieldsZero op.format w = true := by
  constructor
  · rintro ⟨i, hi, rfl⟩
    obtain ⟨hopc, hdead, -⟩ := decode_eq_ok_iff.mp hi
    exact ⟨hopc, hdead⟩
  · rintro ⟨hopc, hdead⟩
    exact ⟨op.instr (idxOf w) (immOf w), decode_eq_ok_iff.mpr (by simp [hopc, hdead]), op.instr_op _ _⟩

/-- A row matches exactly the words that decode to its command (R49). -/
theorem row_matches_iff_decode (op : Op) (w : CmdWord) :
    w &&& op.row.mask = op.row.pattern ↔ ∃ i, decode w = .ok i ∧ i.op = op :=
  (row_matches_iff op w).trans (decode_op_iff op w).symm

/-- Two rows that match one word are the same row: a word has one opcode. -/
theorem row_unique {op op' : Op} {w : CmdWord} (h : w &&& op.row.mask = op.row.pattern)
    (h' : w &&& op'.row.mask = op'.row.pattern) : op = op' :=
  Op.opcode_injective (((row_matches_iff op w).mp h).1.trans ((row_matches_iff op' w).mp h').1.symm)

/-- Settles O3: a row and the decoder look at the same fields of a word. -/
theorem wordIsCommandIffRowMatches : Obligations.WordIsCommandIffRowMatches := by
  refine ⟨fun w r hr => ?_, fun w r r' hr hr' h h' => ?_, by decide⟩
  · obtain ⟨op, rfl⟩ := mem_opcodeTable.mp hr
    exact row_matches_iff_decode op w
  · obtain ⟨op, rfl⟩ := mem_opcodeTable.mp hr
    obtain ⟨op', rfl⟩ := mem_opcodeTable.mp hr'
    exact congrArg Op.row (row_unique h h')

end Sys2Proof
end

section
/-! PROOFS. Words that match no row (30_encoding.md R50, 60_exceptions.md R112). -/

namespace Sys2Proof.Machine

theorem unmatched_iff (w : CmdWord) :
    (∀ r ∈ opcodeTable, w &&& r.mask ≠ r.pattern) ↔
      ∀ op : Op, op.opcode = opcOf w → deadFieldsZero op.format w = false := by
  simp only [mem_opcodeTable, forall_exists_index, forall_apply_eq_imp_iff, ne_eq, row_matches_iff, not_and,
    Bool.not_eq_true]

/-- The two ways in which a word fails to be a command (R50): no row has its opcode, or the one row that has it finds a
nonzero dead field. -/
theorem unmatched_iff_unlisted_or_mustBeZero (w : CmdWord) :
    (∀ r ∈ opcodeTable, w &&& r.mask ≠ r.pattern) ↔
      (∀ op : Op, op.opcode ≠ opcOf w) ∨ ∃ op : Op, op.opcode = opcOf w ∧ deadFieldsZero op.format w = false := by
  rw [unmatched_iff]
  constructor
  · intro h
    by_cases hl : ∃ op : Op, op.opcode = opcOf w
    · obtain ⟨op, hop⟩ := hl
      exact .inr ⟨op, hop, h op hop⟩
    · exact .inl (not_exists.mp hl)
  · rintro (hunlisted | ⟨op, hop, hdead⟩) op' hop'
    · exact absurd hop' (hunlisted op')
    · rwa [Op.opcode_injective (hop'.trans hop.symm)]

theorem decode_error_of_unmatched {w : CmdWord} (h : ∀ r ∈ opcodeTable, w &&& r.mask ≠ r.pattern) :
    ∃ e, decode w = .error e := by
  cases hd : decode w with
  | ok i => exact absurd ((row_matches_iff_decode i.op w).mpr ⟨i, hd, rfl⟩) (h _ (mem_opcodeTable.mpr ⟨i.op, rfl⟩))
  | error e => exact ⟨e, rfl⟩

theorem step_of_illegal {s : State} {w : CmdWord} {rest : List HostInput} {e : Illegal}
    (hs : s.inputs = .command w :: rest) (hd : decode w = .error e) :
    step s = .next (raise .illegal { s with inputs := rest }) := by
  simp [step, fetch, hs, hd]

/-- The listed opcodes among the 256 values are the 19 of the opcode map. -/
theorem listed_opcodes_perm :
    ((List.range 256).filter fun n => (Op.ofOpcode? (BitVec.ofNat 8 n)).isSome).Perm
      (Op.all.map fun op => op.opcode.toNat) := by
  have hinj : Function.Injective fun op : Op => op.opcode.toNat := fun _ _ h =>
    Op.opcode_injective (BitVec.eq_of_toNat_eq h)
  have hall : (Op.all.map fun op => op.opcode.toNat).Nodup := List.Nodup.map hinj (by decide)
  refine (List.perm_ext_iff_of_nodup (List.nodup_range.filter _) hall).mpr fun n => ?_
  simp [Option.isSome_iff_exists, Op.ofOpcode?_eq_some_iff, Op.mem_all, BitVec.toNat_eq_nat]

/-- R50: 256 - 19 opcodes are unlisted. -/
theorem unlisted_opcode_count :
    ((List.range 256).filter fun n => (Op.ofOpcode? (BitVec.ofNat 8 n)).isNone).length = 237 := by
  have hlisted := listed_opcodes_perm.length_eq
  have hsplit := (List.range 256).length_eq_length_filter_add fun n => (Op.ofOpcode? (BitVec.ofNat 8 n)).isSome
  simp only [Option.not_isSome, List.length_range, hlisted, List.length_map] at hsplit
  have h19 : Op.all.length = 19 := rfl
  omega

/-- Settles O4: an unmatched word does not decode, so the step takes the fault `ILLEGAL`. -/
theorem unmatchedWordIsIllegal : Obligations.UnmatchedWordIsIllegal := by
  refine ⟨fun s w rest hs hw => ?_, unmatched_iff_unlisted_or_mustBeZero, unlisted_opcode_count, by decide, by decide⟩
  obtain ⟨e, hd⟩ := decode_error_of_unmatched hw
  exact step_of_illegal hs hd

end Sys2Proof.Machine
end

section
/-! PROOFS. A command's word as its fields shifted into place (30_encoding.md R45). -/

namespace Sys2Proof

/-- A packed word is its four fields, each shifted into its place (R45). -/
theorem packWord_eq_or (opc : BitVec 8) (rsv : BitVec 4) (idx : BitIdx) (imm : Wide) :
    packWord opc rsv idx imm =
      opc.setWidth 32 <<< 24 ||| rsv.setWidth 32 <<< 20 ||| idx.setWidth 32 <<< 16 ||| imm.setWidth 32 :=
  (BitVec.setWidth_eq _).symm.trans BitVec.setWidth_append_append_append_eq_shiftLeft_setWidth_or

/-- The word of a command with an index alone: the match word of its row, and the index in `idx` (R46, R49). The row is
named apart from `i`, so that `hpattern` is a closed fact. -/
theorem encode_of_index {i : Instr} {pattern : CmdWord} {idx : BitIdx} (op : Op) (hop : i.op = op)
    (hpattern : op.row.pattern = pattern) (hidx : i.idxField = idx) (himm : i.immField = 0#16) :
    encode i = pattern ||| idx.setWidth 32 <<< 16 := by
  have hrsv : (0#4).setWidth 32 <<< 20 = 0#32 := by decide
  rw [encode, packWord_eq_or, hidx, himm, hrsv, BitVec.or_zero, BitVec.setWidth_zero, BitVec.or_zero, ← hpattern,
    ← hop]
  rfl

end Sys2Proof
end

section
/-! PROOFS. The BitField primitives as the spec's formulas (40_bitfield.md R58 to R61), at any width. -/

namespace Sys2Proof.Machine

/-- R58: a bit is set exactly when shifting it to bit 0 leaves 1 there. -/
theorem isBitSet_iff_shift_and_one {n : Nat} (v : BitVec n) (i : Fin n) :
    isBitSet v i = true ↔ (v >>> i.val) &&& 1#n = 1#n := by
  have hn : 0 < n := i.pos
  rw [isBitSet_eq, BitVec.and_one_eq_setWidth_ofBool_getLsbD, BitVec.getLsbD_ushiftRight, Nat.add_zero]
  cases v.getLsbD i.val with
  | true => exact iff_of_true rfl (BitVec.setWidth_ofNat_one_eq_ofNat_one_of_lt Nat.one_pos)
  | false => simp [hn.ne']

/-- R59. -/
theorem setBit_eq_or_shift {n : Nat} (v : BitVec n) (i : Fin n) : setBit v i = v ||| (1#n <<< i.val) := rfl

/-- R60. -/
theorem flipBit_eq_xor_shift {n : Nat} (v : BitVec n) (i : Fin n) : flipBit v i = v ^^^ (1#n <<< i.val) := rfl

theorem setBit_getLsbD_of_ne {n : Nat} (v : BitVec n) (i : Fin n) {j : Nat} (h : j ≠ i.val) :
    (setBit v i).getLsbD j = v.getLsbD j := by
  rw [setBit_getLsbD, decide_eq_false h, Bool.or_false]

theorem flipBit_getLsbD_of_ne {n : Nat} (v : BitVec n) (i : Fin n) {j : Nat} (h : j ≠ i.val) :
    (flipBit v i).getLsbD j = v.getLsbD j := by
  rw [flipBit_getLsbD, decide_eq_false h, Bool.xor_false]

@[simp] theorem flipBit_flipBit {n : Nat} (v : BitVec n) (i : Fin n) : flipBit (flipBit v i) i = v := by
  rw [flipBit, flipBit, BitVec.xor_assoc, BitVec.xor_self, BitVec.xor_zero]

theorem countBelow_eq_sum {n : Nat} (v : BitVec n) (k : Nat) :
    countBelow v k = ∑ j : Fin k, (v.getLsbD j).toNat := by
  induction k with
  | zero => rfl
  | succ k ih => rw [countBelow_succ, ih, Fin.sum_univ_castSucc]; rfl

/-- R61. -/
theorem popCount_eq_sum {n : Nat} (v : BitVec n) : popCount v = ∑ j : Fin n, (v.getLsbD j).toNat :=
  countBelow_eq_sum v n

/-- Settles O29: the formulas hold at every width, so at 8 and 16. -/
theorem primitivesAreTheirFormulas : Obligations.PrimitivesAreTheirFormulas := fun _ _ v i =>
  ⟨isBitSet_iff_shift_and_one v i, setBit_eq_or_shift v i, flipBit_eq_xor_shift v i, fun _ hj =>
    ⟨setBit_getLsbD_of_ne v i hj, flipBit_getLsbD_of_ne v i hj⟩⟩

end Sys2Proof.Machine
end

section
/-! PROOFS. How a command that starts with a read or with an index check goes on (10_state.md R20,
60_exceptions.md R113, R114): with the content or the index, or with the fault and nothing changed. -/

namespace Sys2Proof.Machine

theorem complete_readCw_written {s : State} (h : s.vw = true) (k : Wide → Effect) :
    complete s (readCw s >>= k) = complete s (k s.cw) := by
  rw [readCw_written h]; rfl

theorem complete_readCw_unwritten {s : State} (h : s.vw = false) (k : Wide → Effect) :
    complete s (readCw s >>= k) = .next (raise .unwritten s) := by
  rw [readCw_unwritten h]; rfl

theorem complete_readCh_written {s : State} (h : s.vn = true) (k : Narrow → Effect) :
    complete s (readCh s >>= k) = complete s (k s.ch) := by
  rw [readCh_written h]; rfl

theorem complete_readCh_unwritten {s : State} (h : s.vn = false) (k : Narrow → Effect) :
    complete s (readCh s >>= k) = .next (raise .unwritten s) := by
  rw [readCh_unwritten h]; rfl

theorem complete_narrowIndex_inside (s : State) {idx : BitIdx} (h : idx.toNat < 8) (k : Fin 8 → Effect) :
    complete s (narrowIndex idx >>= k) = complete s (k ⟨idx.toNat, h⟩) := by
  rw [narrowIndex_inside h]; rfl

theorem complete_narrowIndex_outside (s : State) {idx : BitIdx} (h : 8 ≤ idx.toNat) (k : Fin 8 → Effect) :
    complete s (narrowIndex idx >>= k) = .next (raise .indexRange s) := by
  rw [narrowIndex_outside h]; rfl

end Sys2Proof.Machine
end

section
/-! PROOFS. The BitField commands on `CW` (40_bitfield.md R67 to R70). -/

namespace Sys2Proof.Machine

/-- Settles O16: the bit of the content read, or the fault of the read. -/
theorem tstwTestsWideBit : Obligations.TstwTestsWideBit := fun idx _ =>
  ⟨encode_of_index .tstw rfl (by decide) rfl rfl, fun hw => complete_readCw_written hw _,
    fun hu => complete_readCw_unwritten hu _⟩

theorem exec_setw_written {s : State} (h : s.vw = true) (idx : BitIdx) :
    exec (.setw idx) s = .next (respond 0#16 (writeCw (setBit s.cw (wideIndex idx)) s)) :=
  complete_readCw_written h _

/-- Settles O17: `set_bit` of the content read, or the fault of the read. -/
theorem setwSetsWideBit : Obligations.SetwSetsWideBit := fun idx _ =>
  ⟨encode_of_index .setw rfl (by decide) rfl rfl, fun hw => exec_setw_written hw idx,
    fun hu => complete_readCw_unwritten hu _⟩

theorem exec_flpw_written {s : State} (h : s.vw = true) (idx : BitIdx) :
    exec (.flpw idx) s = .next (respond 0#16 (writeCw (flipBit s.cw (wideIndex idx)) s)) :=
  complete_readCw_written h _

/-- The command again, after one that completed, restores `CW` (R69). -/
theorem exec_flpw_again {s : State} (h : s.vw = true) (idx : BitIdx) (v : Wide) :
    exec (.flpw idx) (respond v (writeCw (flipBit s.cw (wideIndex idx)) s)) = .next (respond 0#16 s) := by
  rw [exec_flpw_written (by simpa using h)]
  simp only [respond_cw, writeCw_cw, flipBit_flipBit]
  rfl

/-- Settles O18: `flip_bit` of the content read, which is its own inverse, or the fault of the read. -/
theorem flpwFlipsWideBit : Obligations.FlpwFlipsWideBit := fun idx _ =>
  ⟨encode_of_index .flpw rfl (by decide) rfl rfl,
    fun hw => ⟨_, exec_flpw_written hw idx, rfl, exec_flpw_again hw idx 0#16⟩,
    fun hu => complete_readCw_unwritten hu _⟩

theorem exec_cntw_written {s : State} (h : s.vw = true) :
    exec .cntw s = .next (respond (countValue (popCount s.cw)) s) :=
  complete_readCw_written h _

/-- Settles O19: `pop_count` is the sum of the bits. -/
theorem cntwCountsWideBits : Obligations.CntwCountsWideBits := by
  refine ⟨by decide, fun s hw => ?_, fun s hu => complete_readCw_unwritten hu _⟩
  rw [exec_cntw_written hw, popCount_eq_sum]
  rfl

end Sys2Proof.Machine
end

section
/-! PROOFS. The BitField commands on `CH` (40_bitfield.md R71 to R74): the index is checked before the valid flag
(60_exceptions.md R116). -/

namespace Sys2Proof.Machine

/-- What a narrow command with an index does, `k` being what it makes of the index and the content of `CH`. -/
theorem narrowCommand_cases (s : State) (idx : BitIdx) (k : Fin 8 → Narrow → Effect) :
    (8 ≤ idx.toNat → complete s (do k (← narrowIndex idx) (← readCh s)) = .next (raise .indexRange s)) ∧
    (idx.toNat < 8 → s.vn = false →
      complete s (do k (← narrowIndex idx) (← readCh s)) = .next (raise .unwritten s)) ∧
    (∀ hi : idx.toNat < 8, s.vn = true →
      complete s (do k (← narrowIndex idx) (← readCh s)) = complete s (k ⟨idx.toNat, hi⟩ s.ch)) := by
  refine ⟨fun ho => complete_narrowIndex_outside s ho _, fun hi hu => ?_, fun hi hw => ?_⟩
  · rw [complete_narrowIndex_inside s hi, complete_readCh_unwritten hu]
  · rw [complete_narrowIndex_inside s hi, complete_readCh_written hw]

/-- Settles O20: the three ways a narrow command with an index ends. -/
theorem tstnTestsNarrowBit : Obligations.TstnTestsNarrowBit := fun idx s =>
  ⟨encode_of_index .tstn rfl (by decide) rfl rfl,
    narrowCommand_cases s idx fun i ch => .ok (s, boolValue (isBitSet ch i))⟩

/-- Settles O21: the three ways a narrow command with an index ends. -/
theorem setnSetsNarrowBit : Obligations.SetnSetsNarrowBit := fun idx s =>
  ⟨encode_of_index .setn rfl (by decide) rfl rfl,
    narrowCommand_cases s idx fun i ch => .ok (writeCh (setBit ch i) s, 0#16)⟩

/-- Settles O22: the three ways a narrow command with an index ends. -/
theorem flpnFlipsNarrowBit : Obligations.FlpnFlipsNarrowBit := fun idx s =>
  ⟨encode_of_index .flpn rfl (by decide) rfl rfl,
    narrowCommand_cases s idx fun i ch => .ok (writeCh (flipBit ch i) s, 0#16)⟩

theorem exec_cntn_written {s : State} (h : s.vn = true) :
    exec .cntn s = .next (respond (countValue (popCount s.ch)) s) :=
  complete_readCh_written h _

/-- Settles O23: `pop_count` is the sum of the bits. -/
theorem cntnCountsNarrowBits : Obligations.CntnCountsNarrowBits := by
  refine ⟨by decide, fun s hw => ?_, fun s hu => complete_readCh_unwritten hu _⟩
  rw [exec_cntn_written hw, popCount_eq_sum]
  rfl

end Sys2Proof.Machine
end

section
/-! PROOFS. The layout lookup (41_layout.md R77, R80): the table alone decides how `MAP` ends, whatever the state. -/

namespace Sys2Proof.Machine

theorem exec_map_of_some {idx : BitIdx} {k : Fin 8} (h : dataToChar (wideIndex idx) = some k) (s : State) :
    exec (.map idx) s = .next (respond (countValue k.val) s) := by
  rw [exec, execMap, layoutIndex_some h]; rfl

theorem exec_map_of_none {idx : BitIdx} (h : dataToChar (wideIndex idx) = none) (s : State) :
    exec (.map idx) s = .next (raise .indexRange s) := by
  rw [exec, execMap, layoutIndex_none h]; rfl

/-- The table holds each position once, so looking up an entry's position finds that entry. -/
theorem dataToChar_of_mem_charOf : ∀ bk ∈ charOf, dataToChar bk.1 = some bk.2 :=
  List.map_inj_left.mp (by decide)

/-- An entry of the table as an operand of `MAP` and the value of its response. -/
def mapAnswer (bk : Fin 16 × Fin 8) : BitIdx × Wide := (BitVec.ofFin bk.1, countValue bk.2.val)

/-- The table `CHAR_OF` as R80 answers from it. -/
theorem charOf_map_mapAnswer :
    charOf.map mapAnswer =
      [(3#4, 0#16), (5#4, 1#16), (6#4, 2#16), (7#4, 3#16), (9#4, 4#16), (10#4, 5#16), (11#4, 6#16), (12#4, 7#16)] :=
  rfl

theorem exec_map_mapAnswer {bk : Fin 16 × Fin 8} (h : bk ∈ charOf) (s : State) :
    exec (.map (mapAnswer bk).1) s = .next (respond (mapAnswer bk).2 s) :=
  exec_map_of_some (idx := .ofFin bk.1) (dataToChar_of_mem_charOf bk h) s

/-- Bit 0, the four parity positions and bits 13 to 15 are not in the table (R77). -/
theorem dataToChar_of_other_position :
    ∀ idx ∈ [0#4, 1#4, 2#4, 4#4, 8#4, 13#4, 14#4, 15#4], dataToChar (wideIndex idx) = none := by
  decide

/-- Settles O24: `MAP` answers what the table holds for the index, or takes the fault where it holds nothing. -/
theorem mapLooksUpLayout : Obligations.MapLooksUpLayout := by
  refine fun s => ⟨fun _ => encode_of_index .map rfl (by decide) rfl rfl, fun _ hrow => ?_, fun idx hidx => ?_⟩
  · rw [← charOf_map_mapAnswer] at hrow
    obtain ⟨bk, hbk, rfl⟩ := List.mem_map.mp hrow
    exact exec_map_mapAnswer hbk s
  · exact exec_map_of_none (dataToChar_of_other_position idx hidx) s

end Sys2Proof.Machine
end

section
/-! PROOFS. The code is linear (42_corrector.md R82 to R85, R88): a check of an exclusive OR is the exclusive OR of the
checks, so the syndrome of an exclusive OR is the exclusive OR of the syndromes. -/

namespace Sys2Proof.Machine

/-- An exclusive OR loses both of the 1 bits that meet. -/
theorem countBelow_xor {n : Nat} (v u : BitVec n) (k : Nat) :
    countBelow (v ^^^ u) k + 2 * countBelow (v &&& u) k = countBelow v k + countBelow u k := by
  induction k with
  | zero => rfl
  | succ k ih =>
    have hbit : ∀ a b : Bool, (a ^^ b).toNat + 2 * (a && b).toNat = a.toNat + b.toNat := by decide
    have hk := hbit (v.getLsbD k) (u.getLsbD k)
    simp only [countBelow_succ, BitVec.getLsbD_xor, BitVec.getLsbD_and]
    omega

theorem popCount_xor_odd {n : Nat} (v u : BitVec n) :
    (popCount (v ^^^ u) % 2 == 1) = ((popCount v % 2 == 1) ^^ (popCount u % 2 == 1)) := by
  have hxor : popCount (v ^^^ u) + 2 * popCount (v &&& u) = popCount v + popCount u := countBelow_xor v u n
  rw [Bool.eq_iff_iff]
  simp only [beq_iff_eq, bne_iff_ne, ne_eq, beq_eq_beq]
  omega

theorem group_xor (v u : Wide) (p : Parity) : group (v ^^^ u) p = group v p ^^^ group u p :=
  BitVec.eq_of_toNat_eq Nat.and_xor_distrib_right

theorem expected_xor (v u : Wide) (p : Parity) : expected (v ^^^ u) p = (expected v p ^^ expected u p) := by
  rw [expected, group_xor, popCount_xor_odd, expected, expected]

theorem observed_xor (v u : Wide) (p : Parity) : observed (v ^^^ u) p = (observed v p ^^ observed u p) :=
  BitVec.getLsbD_xor

theorem checkFails_xor (v u : Wide) (p : Parity) : checkFails (v ^^^ u) p = (checkFails v p ^^ checkFails u p) := by
  simp only [checkFails, observed_xor, expected_xor, Bool.bne_eq_xor, Bool.xor_assoc,
    Bool.xor_left_comm (expected v p)]

/-- Each failing check sets the bit of its weight (R85). -/
theorem syndrome_eq_append (cw : Wide) :
    syndrome cw = BitVec.ofBool (checkFails cw .p8) ++ BitVec.ofBool (checkFails cw .p4) ++
      BitVec.ofBool (checkFails cw .p2) ++ BitVec.ofBool (checkFails cw .p1) := by
  rw [syndrome_unfold]
  generalize checkFails cw .p1 = c1, checkFails cw .p2 = c2, checkFails cw .p4 = c4, checkFails cw .p8 = c8
  decide +revert

theorem syndrome_xor (v u : Wide) : syndrome (v ^^^ u) = syndrome v ^^^ syndrome u := by
  rw [syndrome_eq_append, syndrome_eq_append v, syndrome_eq_append u]
  simp only [checkFails_xor, ← BitVec.ofBool_xor_ofBool, ← BitVec.xor_append]

/-- R78, R88: a lone bit has its position as syndrome, and bits 0, 13, 14 and 15 do not enter. -/
theorem syndrome_twoPow : ∀ b : Fin 16,
    syndrome (BitVec.twoPow 16 b.val) = if 1 ≤ b.val ∧ b.val ≤ 12 then BitVec.ofNat 4 b.val else 0#4 := by
  decide

theorem syndrome_flipBit_of_inside (v : Wide) {b : Fin 16} (hlo : 1 ≤ b.val) (hhi : b.val ≤ 12) :
    syndrome (flipBit v b) = syndrome v ^^^ BitVec.ofNat 4 b.val := by
  rw [flipBit, syndrome_xor, syndrome_twoPow, if_pos ⟨hlo, hhi⟩]

theorem Parity.sum_map_all (f : Parity → Nat) : (Parity.all.map f).sum = f .p1 + f .p2 + f .p4 + f .p8 := by
  simp [Parity.all, Nat.add_assoc]

/-- The four weights add up with no carry (R85). -/
theorem syndrome_toNat (cw : Wide) :
    (syndrome cw).toNat = (Parity.all.map fun p => if checkFails cw p = true then p.weight.toNat else 0).sum := by
  rw [syndrome_unfold, Parity.sum_map_all]
  generalize checkFails cw .p1 = c1, checkFails cw .p2 = c2, checkFails cw .p4 = c4, checkFails cw .p8 = c8
  decide +revert

/-- R84, R85: no check fails. -/
theorem syndrome_of_valid {v : Wide} (h : ValidCodeword v) : syndrome v = 0#4 := by
  have hpass : ∀ p, checkFails v p = false := fun p => h p (by cases p <;> decide)
  simp [syndrome_unfold, hpass]

end Sys2Proof.Machine
end

section
/-! PROOFS. The corrector (42_corrector.md R86, R87, R89). -/

namespace Sys2Proof.Machine

/-- A parity bit's position is its weight (41_layout.md R75). -/
theorem Parity.position_val (p : Parity) : p.position.val = p.weight.toNat := by cases p <;> rfl

/-- R82 to R84 in the bits of the codeword. -/
theorem checkFails_iff_bits (cw : Wide) (p : Parity) : checkFails cw p = true ↔
    (cw.getLsbD p.weight.toNat).toNat ≠ (∑ j : Fin 16, ((cw &&& p.mask).getLsbD j).toNat) % 2 := by
  rw [checkFails, observed, isBitSet_eq, p.position_val, expected, group, ← popCount_eq_sum]
  obtain hm | hm := Nat.mod_two_eq_zero_or_one (popCount (cw &&& p.mask)) <;>
    cases cw.getLsbD p.weight.toNat <;> simp [hm]

theorem correct_eq_xor_shift (cw : Wide) : correct cw =
    if (syndrome cw).toNat ≠ 0 then (cw ^^^ (1#16 <<< (syndrome cw).toNat), syndrome cw) else (cw, 0#4) := by
  by_cases h : syndrome cw = 0#4
  · simp [correct, h]
  · have hs : (syndrome cw).toNat ≠ 0 := BitVec.toNat_ne.mp h
    rw [correct, if_neg h, if_pos hs, flipBit_eq_xor_shift]
    rfl

/-- Settles O34: the sum of the failing weights is the syndrome. -/
theorem correctIsTheWholeFunction : Obligations.CorrectIsTheWholeFunction := by
  intro cw check s
  have hcheck : ∀ p : Parity, (if checkFails cw p = true then p.weight.toNat else 0) = check p.weight.toNat p.mask :=
    fun p => if_congr (checkFails_iff_bits cw p) rfl rfl
  have hs : (syndrome cw).toNat = s := by
    simp only [syndrome_toNat, Parity.sum_map_all, hcheck]
    rfl
  rw [← hs, BitVec.ofNat_toNat, BitVec.setWidth_eq]
  exact correct_eq_xor_shift cw

theorem correct_getLsbD (cw : Wide) (j : Nat) : (correct cw).1.getLsbD j =
    (cw.getLsbD j ^^ (decide (syndrome cw ≠ 0#4) && decide (j = (syndrome cw).toNat))) := by
  by_cases h : syndrome cw = 0#4
  · simp [correct_of_zero h, h]
  · rw [correct_of_nonzero h, flipBit_getLsbD, decide_eq_true h, Bool.true_and]
    rfl

/-- R86: index 0 is reached only by the no-flip case. -/
theorem correct_getLsbD_zero (cw : Wide) : (correct cw).1.getLsbD 0 = cw.getLsbD 0 := by
  by_cases h : syndrome cw = 0#4
  · rw [correct_of_zero h]
  · rw [correct_of_nonzero h]
    exact flipBit_getLsbD_of_ne cw _ (BitVec.toNat_ne.mp h).symm

/-- Settles O35: the corrector flips the bit the syndrome names, and index 0 stands for no flip. -/
theorem correctFlipsTheBitTheSyndromeNames : Obligations.CorrectFlipsTheBitTheSyndromeNames := fun cw =>
  ⟨correct_syndrome cw, correct_getLsbD cw, correct_of_zero, correct_getLsbD_zero cw⟩

theorem correct_of_valid {v : Wide} (h : ValidCodeword v) : correct v = (v, 0#4) :=
  Prod.ext (correct_of_zero (syndrome_of_valid h)) ((correct_syndrome v).trans (syndrome_of_valid h))

/-- A flip at `b` moves the syndrome of a valid codeword from 0 to `b`, and the corrector flips bit `b` back. -/
theorem correct_flipBit_of_valid {v : Wide} (h : ValidCodeword v) {b : Fin 16} (hlo : 1 ≤ b.val)
    (hhi : b.val ≤ 12) : correct (flipBit v b) = (v, BitVec.ofNat 4 b.val) := by
  have hsyn : syndrome (flipBit v b) = BitVec.ofNat 4 b.val := by
    rw [syndrome_flipBit_of_inside v hlo hhi, syndrome_of_valid h, BitVec.zero_xor]
  have hb : (BitVec.ofNat 4 b.val).toNat = b.val := Nat.mod_eq_of_lt b.isLt
  have hne : syndrome (flipBit v b) ≠ 0#4 := BitVec.toNat_ne.mpr (by rw [hsyn, hb]; exact Nat.ne_of_gt hlo)
  have hfin : (syndrome (flipBit v b)).toFin = b := by rw [hsyn]; exact Fin.ext hb
  have hback : (correct (flipBit v b)).1 = v := by rw [correct_of_nonzero hne, hfin, flipBit_flipBit]
  exact Prod.ext hback ((correct_syndrome _).trans hsyn)

/-- Settles O39: a valid codeword has syndrome 0, and a flip at `b` makes it `b`. -/
theorem singleErrorIsCorrected : Obligations.SingleErrorIsCorrected := fun _ hv =>
  ⟨correct_of_valid hv, fun _ => correct_flipBit_of_valid hv⟩

end Sys2Proof.Machine
end

section
/-! PROOFS. The extractor (43_extractor.md R94, R97): the loop over the table `CHAR_OF` copies each data bit to the
character bit of its own. -/

namespace Sys2Proof.Machine

/-- After the loop over any table, a bit is set if it was set before or if some entry for it has its data bit set. -/
theorem foldl_setBit_getLsbD (cw : Wide) (table : List (Fin 16 × Fin 8)) (c : Narrow) (j : Nat) :
    (table.foldl (fun c bk => if isBitSet cw bk.1 then setBit c bk.2 else c) c).getLsbD j =
      (c.getLsbD j || table.any fun bk => cw.getLsbD bk.1.val && decide (j = bk.2.val)) := by
  induction table generalizing c with
  | nil => simp
  | cons bk table ih =>
    rw [List.foldl_cons, ih, List.any_cons, ← Bool.or_assoc, isBitSet_eq]
    cases cw.getLsbD bk.1.val with
    | true => simp [setBit_getLsbD]
    | false => simp

theorem toCharacter_getLsbD (cw : Wide) (j : Nat) :
    (toCharacter cw).getLsbD j = charOf.any fun bk => cw.getLsbD bk.1.val && decide (j = bk.2.val) := by
  rw [toCharacter, foldl_setBit_getLsbD, BitVec.getLsbD_zero, Bool.false_or]

/-- The table feeds each character bit from one position (R77). -/
theorem eq_of_mem_charOf {bk bk' : Fin 16 × Fin 8} (h : bk ∈ charOf) (h' : bk' ∈ charOf) (heq : bk.2 = bk'.2) :
    bk = bk' :=
  List.inj_on_of_nodup_map (by decide) h h' heq

/-- An entry's character bit is its data bit: no other entry feeds it. -/
theorem toCharacter_getLsbD_of_mem (cw : Wide) (bk : Fin 16 × Fin 8) (h : bk ∈ charOf) :
    (toCharacter cw).getLsbD bk.2.val = cw.getLsbD bk.1.val := by
  rw [toCharacter_getLsbD, Bool.eq_iff_iff, List.any_eq_true]
  constructor
  · rintro ⟨bk', h', hbit⟩
    obtain ⟨hset, hval⟩ := Bool.and_eq_true_iff.mp hbit
    rwa [eq_of_mem_charOf h h' (Fin.ext (of_decide_eq_true hval))]
  · intro hset
    exact ⟨bk, h, by simp [hset]⟩

/-- Settles O42: its eight equations are the eight entries of the table. -/
theorem extractorCopiesTheEightDataBits : Obligations.ExtractorCopiesTheEightDataBits := fun cw =>
  List.forall_iff_forall_mem (l := charOf).mpr (toCharacter_getLsbD_of_mem cw)

theorem exec_ext_written {s : State} (h : s.vw = true) :
    exec .ext s = .next (respond (zext16 (toCharacter s.cw)) (setVn (writeCh (toCharacter s.cw) s))) :=
  complete_readCw_written h _

/-- Settles O26: the character of the content read, whatever `CH` and `VN` were, or the fault of the read. -/
theorem extExtractsCharacter : Obligations.ExtExtractsCharacter :=
  ⟨by decide, fun _ hw => exec_ext_written hw, fun _ hu => complete_readCw_unwritten hu _⟩

end Sys2Proof.Machine
end

section
/-! PROOFS. The words of the commands with an immediate (30_encoding.md R45, R46). -/

namespace Sys2Proof

/-- The word of a command with an immediate alone: the match word of its row, and the immediate in `imm` (R46, R49). The
row is named apart from `i`, so that `hpattern` is a closed fact. -/
theorem encode_of_immediate {i : Instr} {pattern : CmdWord} {imm : Wide} (op : Op) (hop : i.op = op)
    (hpattern : op.row.pattern = pattern) (hidx : i.idxField = 0#4) (himm : i.immField = imm) :
    encode i = pattern ||| imm.setWidth 32 := by
  have hrsv : (0#4).setWidth 32 <<< 20 = 0#32 := by decide
  have hidx0 : (0#4).setWidth 32 <<< 16 = 0#32 := by decide
  rw [encode, packWord_eq_or, hidx, himm, hrsv, hidx0, BitVec.or_zero, BitVec.or_zero, ← hpattern, ← hop]
  rfl

/-- `imm[15:8]` is dead in the format of `LDN` (R46). -/
theorem deadFieldsZero_I8_of_highByte {w : CmdWord} (h : w.extractLsb' 8 8 ≠ 0#8) :
    deadFieldsZero .I8 w = false := by
  have himm : (immOf w).extractLsb' 8 8 = w.extractLsb' 8 8 := BitVec.extractLsb'_extractLsb'_of_le (by decide)
  simp [deadFieldsZero, himm, h]

end Sys2Proof
end

section
/-! PROOFS. The register transfer commands (44_interface_ops.md R104 to R109). -/

namespace Sys2Proof.Machine

/-- A word with a listed opcode and a nonzero dead field takes the fault `ILLEGAL` (R50, R112). -/
theorem step_of_deadField {s : State} {w : CmdWord} {rest : List HostInput} (hs : s.inputs = .command w :: rest)
    (op : Op) (hopc : op.opcode = opcOf w) (hdead : deadFieldsZero op.format w = false) :
    step s = .next (raise .illegal { s with inputs := rest }) := by
  obtain ⟨_, hd⟩ :=
    decode_error_of_unmatched ((unmatched_iff_unlisted_or_mustBeZero w).mpr (.inr ⟨op, hopc, hdead⟩))
  exact step_of_illegal hs hd

theorem complete_readSyn_written {s : State} (h : s.vs = true) (k : Syndrome → Effect) :
    complete s (readSyn s >>= k) = complete s (k s.syn) := by
  rw [readSyn_written h]; rfl

theorem complete_readSyn_unwritten {s : State} (h : s.vs = false) (k : Syndrome → Effect) :
    complete s (readSyn s >>= k) = .next (raise .unwritten s) := by
  rw [readSyn_unwritten h]; rfl

/-- R19 as a sum: the flags have the weights 1, 2 and 4. -/
theorem statusWord_eq_sum (s : State) : statusWord s =
    (if s.vw then 1#16 else 0#16) + (if s.vn then 2#16 else 0#16) + (if s.vs then 4#16 else 0#16) := by
  rw [statusWord]
  generalize s.vw = vw, s.vn = vn, s.vs = vs
  decide +revert

/-- Settles O10: `LDW` completes with the writes of `afterWrites` and the value 0. -/
theorem ldwLoadsCodewordRegister : Obligations.LdwLoadsCodewordRegister := fun imm s =>
  ⟨encode_of_immediate .ldw rfl (by decide) rfl rfl, complete_ok s (afterWrites (.ldw imm) s) 0#16⟩

/-- Settles O11: `LDN` completes with the writes of `afterWrites` and the value 0; a nonzero high half of `imm` is a
nonzero dead field. -/
theorem ldnLoadsCharacterRegister : Obligations.LdnLoadsCharacterRegister := by
  refine ⟨fun imm s => ⟨?_, complete_ok s (afterWrites (.ldn imm) s) 0#16⟩, fun s w rest hs hopc hhigh => ?_⟩
  · have hwide : (imm.setWidth 16).setWidth 32 = imm.setWidth 32 := BitVec.setWidth_setWidth (by decide)
    rw [← hwide]
    exact encode_of_immediate .ldn rfl (by decide) rfl rfl
  · exact step_of_deadField hs .ldn hopc.symm (deadFieldsZero_I8_of_highByte hhigh)

/-- Settles O12: the content of `CW`, or the fault of the read. -/
theorem rdwReadsCodewordRegister : Obligations.RdwReadsCodewordRegister :=
  ⟨by decide, fun _ hw => complete_readCw_written hw _, fun _ hu => complete_readCw_unwritten hu _⟩

/-- Settles O13: the content of `CH`, or the fault of the read. -/
theorem rdnReadsCharacterRegister : Obligations.RdnReadsCharacterRegister :=
  ⟨by decide, fun _ hw => complete_readCh_written hw _, fun _ hu => complete_readCh_unwritten hu _⟩

/-- Settles O14: the content of `SYN`, or the fault of the read. -/
theorem rdsReadsSyndromeRegister : Obligations.RdsReadsSyndromeRegister :=
  ⟨by decide, fun _ hw => complete_readSyn_written hw _, fun _ hu => complete_readSyn_unwritten hu _⟩

/-- Settles O15: `RDST` checks no flag, and its value is `statusWord`. -/
theorem rdstReadsValidFlags : Obligations.RdstReadsValidFlags := by
  refine ⟨by decide, fun s => ?_⟩
  rw [← statusWord_eq_sum]
  exact complete_ok s s (statusWord s)

end Sys2Proof.Machine
end

section
/-! PROOFS. The document's two entry points (44_interface_ops.md R98, R99, R102, R103): neither reads a register, so both
complete in every state. -/

namespace Sys2Proof.Machine

/-- Settles O27: `DEC` completes with the writes of `afterWrites`, and its value is `decode_one` of the operand. -/
theorem decDecodesOneCodeword : Obligations.DecDecodesOneCodeword := fun imm s =>
  ⟨encode_of_immediate .dec rfl (by decide) rfl rfl,
    complete_ok s (afterWrites (.dec imm) s) (zext16 (decodeOne imm))⟩

/-- Settles O28: `INS` completes with the writes of `afterWrites`, and its value is `inspect` of the operand. -/
theorem insInspectsOneCodeword : Obligations.InsInspectsOneCodeword := fun imm s =>
  ⟨encode_of_immediate .ins rfl (by decide) rfl rfl,
    complete_ok s (afterWrites (.ins imm) s) (zext16 (inspect imm))⟩

end Sys2Proof.Machine
end

section
/-! PROOFS. Which fault a command takes (60_exceptions.md R113, R114, R116): the index check comes first, then the
read of the valid flag, and a command that meets neither completes. -/

namespace Sys2Proof.Machine

/-- `MAP` finds exactly the data positions in the table (R80). -/
theorem dataToChar_isSome_iff (idx : BitIdx) :
    (dataToChar (wideIndex idx)).isSome = true ↔ idx.toNat ∈ dataPositions := by
  decide +revert

theorem readsUnwritten_iff {i : Instr} {s : State} : readsUnwritten i s = true ↔
    (readsCw i = true ∧ s.vw = false) ∨ (readsCh i = true ∧ s.vn = false) ∨ (readsSyn i = true ∧ s.vs = false) := by
  simp [readsUnwritten, or_assoc]

theorem not_readsUnwritten_iff {i : Instr} {s : State} : readsUnwritten i s = false ↔
    (readsCw i = true → s.vw = true) ∧ (readsCh i = true → s.vn = true) ∧ (readsSyn i = true → s.vs = true) := by
  simp [← Bool.not_eq_true, readsUnwritten_iff]

/-- R113: a bad index is found before anything is read. -/
theorem exec_of_badIndex {i : Instr} (h : badIndex i = true) (s : State) :
    exec i s = .next (raise .indexRange s) := by
  cases i with
  | tstn _ | setn _ | flpn _ => exact complete_narrowIndex_outside s (of_decide_eq_true h) _
  | map idx =>
    have houtside : idx.toNat ∉ dataPositions := of_decide_eq_true h
    exact exec_map_of_none (Option.not_isSome_iff_eq_none.mp (mt (dataToChar_isSome_iff idx).mp houtside)) s
  | _ => cases h

/-- R114: with a good index, the read of an unwritten register is the fault. -/
theorem exec_of_readsUnwritten {i : Instr} {s : State} (hi : badIndex i = false) (h : readsUnwritten i s = true) :
    exec i s = .next (raise .unwritten s) := by
  obtain ⟨hr, hu⟩ | ⟨hr, hu⟩ | ⟨hr, hu⟩ := readsUnwritten_iff.mp h
  · cases i with
    | rdw | tstw _ | setw _ | flpw _ | cntw | cor | ext => exact complete_readCw_unwritten hu _
    | _ => cases hr
  · cases i with
    | rdn | cntn => exact complete_readCh_unwritten hu _
    | tstn _ | setn _ | flpn _ =>
      have hlt := Nat.lt_of_not_le (of_decide_eq_false hi)
      exact (complete_narrowIndex_inside s hlt _).trans (complete_readCh_unwritten hu _)
    | _ => cases hr
  · cases i with
    | rds => exact complete_readSyn_unwritten hu _
    | _ => cases hr

/-- With a good index and every register it reads written, a command completes. -/
theorem exec_of_noFault {i : Instr} {s : State} (hi : badIndex i = false) (h : readsUnwritten i s = false) :
    ∃ v, exec i s = .next (respond v (afterWrites i s)) := by
  obtain ⟨hcw, hch, hsyn⟩ := not_readsUnwritten_iff.mp h
  cases i with
  | ldw _ | ldn _ | rdst | dec _ | ins _ => exact ⟨_, rfl⟩
  | rdw | tstw _ | setw _ | flpw _ | cntw | cor | ext => exact ⟨_, complete_readCw_written (hcw rfl) _⟩
  | rdn | cntn => exact ⟨_, complete_readCh_written (hch rfl) _⟩
  | rds => exact ⟨_, complete_readSyn_written (hsyn rfl) _⟩
  | tstn _ | setn _ | flpn _ =>
    have hlt := Nat.lt_of_not_le (of_decide_eq_false hi)
    exact ⟨_, (complete_narrowIndex_inside s hlt _).trans (complete_readCh_written (hch rfl) _)⟩
  | map idx =>
    have hinside : idx.toNat ∈ dataPositions := not_not.mp (of_decide_eq_false hi)
    obtain ⟨k, hk⟩ := Option.isSome_iff_exists.mp ((dataToChar_isSome_iff idx).mpr hinside)
    exact ⟨_, exec_map_of_some hk s⟩

end Sys2Proof.Machine
end

section
/-! PROOFS. One status for every presented word (60_exceptions.md R116, R117). -/

namespace Sys2Proof.Machine

theorem afterWrites_inputs (i : Instr) (s : State) : (afterWrites i s).inputs = s.inputs := by
  cases i <;> rfl

theorem step_of_command {s : State} {w : CmdWord} {rest : List HostInput} {i : Instr}
    (hs : s.inputs = .command w :: rest) (hd : decode w = .ok i) :
    step s = exec i { s with inputs := rest } := by
  simp [step, fetch, hs, hd]

/-- The outcome of a word taken in `s` is a next state that responds with the status `st`, and with the value 0 and the
registers of `s` where that is a fault (R117). -/
def AnswersWith (st : Status) (s : State) (o : Host.Outcome State Fault Refusal) : Prop :=
  ∃ t r, o = .next t ∧ t.response = some r ∧ t.inputs = s.inputs ∧ r.status = st ∧
    (r.status ≠ .ok → r.value = 0#16 ∧ SameRegisters t s)

theorem answersWith_of_raise {s : State} {o : Host.Outcome State Fault Refusal} {f : FaultCode}
    (h : o = .next (raise f s)) : AnswersWith f.status s o :=
  ⟨_, _, h, raise_response f s, raise_inputs f s, rfl, fun _ => ⟨rfl, rfl, rfl, rfl, rfl, rfl, rfl⟩⟩

theorem answersWith_of_respond {s t : State} {o : Host.Outcome State Fault Refusal} {v : Wide}
    (h : o = .next (respond v t)) (hinputs : t.inputs = s.inputs) : AnswersWith .ok s o :=
  ⟨_, _, h, respond_response v t, hinputs, rfl, fun hne => absurd rfl hne⟩

/-- The status of a command is the first fault that applies (R116). -/
theorem exec_answersWith (i : Instr) (s : State) :
    AnswersWith (if badIndex i then .indexRange else if readsUnwritten i s then .unwritten else .ok) s (exec i s) := by
  split_ifs with hi hu
  · exact answersWith_of_raise (exec_of_badIndex hi s)
  · exact answersWith_of_raise (exec_of_readsUnwritten (eq_false_of_ne_true hi) hu)
  · obtain ⟨v, h⟩ := exec_of_noFault (eq_false_of_ne_true hi) (eq_false_of_ne_true hu)
    exact answersWith_of_respond h (afterWrites_inputs i s)

/-- Settles O47: a word that does not decode takes `ILLEGAL`, and one that does answers as its command. -/
theorem faultPriorityAndEntry : Obligations.FaultPriorityAndEntry := by
  intro s w rest hs
  cases hd : decode w with
  | error _ => exact answersWith_of_raise (step_of_illegal hs hd)
  | ok i =>
    rw [step_of_command hs hd]
    exact exec_answersWith i { s with inputs := rest }

end Sys2Proof.Machine
end

section
/-! PROOFS. The block right after a reset event, and a run of presented words (70_reset_and_hazards.md R125, R129). -/

namespace Sys2Proof.Machine

/-- No command has an outcome other than a next state (60_exceptions.md R117, R118). -/
theorem exec_next (i : Instr) (s : State) : ∃ t, exec i s = .next t := by
  obtain ⟨_, h⟩ | ⟨_, h⟩ := exec_faultsOrCompletes i s
  · exact ⟨_, h⟩
  · exact ⟨_, h⟩

/-- With all three flags at 0, a command that reads any register reads an unwritten one. -/
theorem readsUnwritten_of_flags_clear {s : State} (hw : s.vw = false) (hn : s.vn = false) (hs : s.vs = false)
    (i : Instr) : readsUnwritten i s = (readsCw i || readsCh i || readsSyn i) := by
  simp [readsUnwritten, hw, hn, hs]

/-- Settles O8: after the reset event every flag is 0, so a command that reads a register takes the fault of the
read. -/
theorem resetEventClearsFlags : Obligations.ResetEventClearsFlags := fun s rest h => by
  refine ⟨_, step_of_reset h, rfl, rfl, rfl, rfl, fun i => exec_next i _, fun i hreads hi => ?_⟩
  have hu := readsUnwritten_of_flags_clear (s := applyReset { s with inputs := rest }) rfl rfl rfl i
  exact exec_of_readsUnwritten hi (hu.trans hreads)

/-- Settles O57, by induction on the words: each takes one step, which puts out one response and leaves the rest of the
inputs for the steps after it. -/
theorem runOfCommandsGivesAsManyResponses : Obligations.RunOfCommandsGivesAsManyResponses := by
  intro ws rest
  induction ws with
  | nil => exact fun s hs => ⟨s, rfl, hs, rfl⟩
  | cons w ws ih =>
    intro s hs
    obtain ⟨t, r, hstep, hresp, hinputs, -⟩ := faultPriorityAndEntry s w _ hs
    obtain ⟨u, hrun, hrest, hcount⟩ := ih t hinputs
    refine ⟨u, (core_run_succ ws.length hstep).trans hrun, hrest, ?_⟩
    rw [List.length_cons, responsesOf_succ ws.length hstep, hresp, Option.toList_some, List.singleton_append,
      List.length_cons, hcount]

end Sys2Proof.Machine
end

section
/-! PROOFS. The encoder and the decoder undo each other (30_encoding.md R45 to R50): a format keeps its live fields and
has 0 in its dead ones, so the words that decode are the encodings. -/

namespace Sys2Proof

/-- What a format keeps of a word's `idx`: the field where it is live, 0 where it is dead (R46). -/
def Format.keepIdx : Format → BitIdx → BitIdx
  | .X, idx => idx
  | .Z, _ | .I16, _ | .I8, _ => 0#4

/-- What a format keeps of a word's `imm` (R46). -/
def Format.keepImm : Format → Wide → Wide
  | .I16, imm => imm
  | .I8, imm => (imm.extractLsb' 0 8).setWidth 16
  | .Z, _ | .X, _ => 0#16

@[simp] theorem Op.instr_idxField (op : Op) (idx : BitIdx) (imm : Wide) :
    (op.instr idx imm).idxField = op.format.keepIdx idx := by
  cases op <;> rfl

@[simp] theorem Op.instr_immField (op : Op) (idx : BitIdx) (imm : Wide) :
    (op.instr idx imm).immField = op.format.keepImm imm := by
  cases op <;> rfl

/-- The low byte alone makes up `imm` exactly when the high byte is 0. -/
theorem lowByte_setWidth_eq_iff (imm : Wide) :
    (imm.extractLsb' 0 8).setWidth 16 = imm ↔ imm.extractLsb' 8 8 = 0#8 := by
  conv_lhs => rhs; rw [← BitVec.extractLsb'_append_extractLsb' (w := 8) (len := 8) (x := imm)]
  rw [BitVec.setWidth_eq_append (by decide), BitVec.cast_eq, BitVec.append_left_inj, eq_comm]

/-- A word's dead fields are 0 exactly when its format keeps its whole `idx` and `imm`. -/
theorem deadFieldsZero_iff_keep (f : Format) (w : CmdWord) : deadFieldsZero f w = true ↔
    rsvOf w = 0#4 ∧ f.keepIdx (idxOf w) = idxOf w ∧ f.keepImm (immOf w) = immOf w := by
  cases f with
  | Z | X | I16 => simp [deadFieldsZero, Format.keepIdx, Format.keepImm, eq_comm (a := 0#4), eq_comm (a := 0#16)]
  | I8 => simp [deadFieldsZero, Format.keepIdx, Format.keepImm, lowByte_setWidth_eq_iff, eq_comm (a := 0#4)]

/-- An instruction is its row with its operand fields (R46, R47). -/
theorem Instr.op_instr_fields (i : Instr) : i.op.instr i.idxField i.immField = i := by
  cases i with
  | ldn imm =>
    have hlow : (imm.setWidth 16).extractLsb' 0 8 = imm :=
      (BitVec.extractLsb'_setWidth_of_le (by decide)).trans BitVec.extractLsb'_eq_self
    exact congrArg Instr.ldn hlow
  | _ => rfl

/-- The words that decode to `i`: its encoding and no other. -/
theorem decode_eq_ok_iff_eq_encode {w : CmdWord} {i : Instr} : decode w = .ok i ↔ w = encode i := by
  rw [decode_eq_ok_iff, deadFieldsZero_iff_keep]
  constructor
  · rintro ⟨hopc, ⟨hrsv, hidx, himm⟩, hi⟩
    rw [← Op.instr_idxField _ _ (immOf w), hi] at hidx
    rw [← Op.instr_immField _ (idxOf w), hi] at himm
    rw [encode, hopc, hidx, himm, ← hrsv, packWord_of_fields]
  · rintro rfl
    obtain ⟨hopc, hrsv, hidx, himm⟩ := Laws.EncodedFields.of_pack i
    rw [hopc, hrsv, hidx, himm, ← Op.instr_idxField _ _ i.immField, ← Op.instr_immField _ i.idxField,
      i.op_instr_fields]
    exact ⟨rfl, ⟨rfl, rfl, rfl⟩, rfl⟩

theorem decode_encode (i : Instr) : decode (encode i) = .ok i := decode_eq_ok_iff_eq_encode.mpr rfl

/-- Settles O1: an encoding decodes to its instruction. -/
theorem decodeOfEncode : Obligations.DecodeOfEncode := decode_encode

theorem wellFormedWord_of_decode {w : CmdWord} {i : Instr} (h : decode w = .ok i) : wellFormedWord w = true := by
  obtain ⟨hopc, hdead, -⟩ := decode_eq_ok_iff.mp h
  rw [wellFormedWord, Op.ofOpcode?_eq_some_iff.mpr hopc]
  exact hdead

/-- Settles O2: a word that decodes is an encoding, and has passed the checks of `wellFormedWord`. -/
theorem onlyEncodedWordsDecode : Obligations.OnlyEncodedWordsDecode := fun _ _ h =>
  ⟨decode_eq_ok_iff_eq_encode.mp h, wellFormedWord_of_decode h⟩

/-- Settles O5: thirteen closed words, run through the decoder. -/
theorem sampleWordsDecode : Obligations.SampleWordsDecode := by
  unfold Obligations.SampleWordsDecode
  decide

end Sys2Proof
end

section
/-! PROOFS. The assembler (30_encoding.md R56). -/

namespace Sys2Proof

/-- The operand is there exactly where the format takes one, and in the range of its field. -/
def Format.Admits : Format → Option Nat → Prop
  | .Z, none => True
  | .X, some n => n ≤ 15
  | .I16, some n => n ≤ 0xFFFF
  | .I8, some n => n ≤ 0xFF
  | _, _ => False

/-- What the operand adds to the opcode in the word. -/
def Format.operandBits : Format → Option Nat → CmdWord
  | .X, some n => BitVec.ofNat 32 n <<< 16
  | _, some n => BitVec.ofNat 32 n
  | _, none => 0#32

/-- What a line assembles to, where an absent operand is 0. -/
theorem assembleLine_eq_ok_iff {l : AsmLine} {i : Instr} : assembleLine l = .ok i ↔
    l.op.format.Admits l.operand ∧
      l.op.instr (BitVec.ofNat 4 (l.operand.getD 0)) (BitVec.ofNat 16 (l.operand.getD 0)) = i := by
  unfold assembleLine
  cases l.op.format with
  | Z => cases l.operand <;> simp [Format.operandBound, Format.Admits]
  | X | I16 | I8 =>
    cases l.operand with
    | none => simp [Format.operandBound, Format.Admits]
    | some n =>
      simp only [Format.operandBound, Format.Admits, Option.getD_some, Nat.lt_succ_iff]
      split_ifs with h <;> simp [h]

/-- The word of a row with these operands: the opcode and what the format keeps, each shifted into its place (R45). -/
theorem encode_instr (op : Op) (idx : BitIdx) (imm : Wide) : encode (op.instr idx imm) =
    op.opcode.setWidth 32 <<< 24 ||| (op.format.keepIdx idx).setWidth 32 <<< 16 |||
      (op.format.keepImm imm).setWidth 32 := by
  have hrsv : (0#4).setWidth 32 <<< 20 = 0#32 := by decide
  rw [encode, packWord_eq_or, Op.instr_op, Op.instr_idxField, Op.instr_immField, hrsv, BitVec.or_zero]

/-- An operand in range is not cut by its field. -/
theorem Format.keep_operand {f : Format} {operand : Option Nat} (h : f.Admits operand) :
    (f.keepIdx (BitVec.ofNat 4 (operand.getD 0))).setWidth 32 <<< 16 |||
      (f.keepImm (BitVec.ofNat 16 (operand.getD 0))).setWidth 32 = f.operandBits operand := by
  have hfield {k n : Nat} (hk : k ≤ 32) (hn : n < 2 ^ k) : (BitVec.ofNat k n).setWidth 32 = BitVec.ofNat 32 n :=
    BitVec.setWidth_ofNat_of_le_of_lt hk hn
  cases operand with
  | none =>
    cases f with
    | Z => decide
    | X | I16 | I8 => exact h.elim
  | some n =>
    cases f with
    | Z => exact h.elim
    | X => simp [keepIdx, keepImm, operandBits, hfield (by decide : 4 ≤ 32) (Nat.lt_succ_of_le h)]
    | I16 => simp [keepIdx, keepImm, operandBits, hfield (by decide : 16 ≤ 32) (Nat.lt_succ_of_le h)]
    | I8 =>
      simp [keepIdx, keepImm, operandBits, ← BitVec.setWidth_eq_extractLsb', BitVec.setWidth_ofNat_of_le,
        hfield (by decide : 8 ≤ 32) (Nat.lt_succ_of_le h)]

theorem exists_assembleLine_iff (l : AsmLine) :
    (∃ i, assembleLine l = .ok i) ↔ l.op.format.Admits l.operand := by
  simp [assembleLine_eq_ok_iff]

/-- The word of an assembled line is `(opc << 24) | (idx << 16) | imm` (R56). -/
theorem encode_of_assembleLine {l : AsmLine} {i : Instr} (h : assembleLine l = .ok i) :
    encode i = l.op.opcode.setWidth 32 <<< 24 ||| l.op.format.operandBits l.operand := by
  obtain ⟨hfits, rfl⟩ := assembleLine_eq_ok_iff.mp h
  rw [encode_instr, BitVec.or_assoc, Format.keep_operand hfits]

/-- Settles O58: a line assembles when its format admits its operand; its word is an encoding, so well formed. -/
theorem assemblerChecksRangeAndPacksFields : Obligations.AssemblerChecksRangeAndPacksFields :=
  ⟨exists_assembleLine_iff, fun _ i h => ⟨wellFormedWord_of_decode (decode_encode i), encode_of_assembleLine h⟩⟩

end Sys2Proof
end

section
/-! PROOFS. Every command in one equation (60_exceptions.md R116, R117): the index fault, the fault of the read, or the
writes of `afterWrites` with the value of `responseValue`. -/

namespace Sys2Proof.Machine

/-- What a command that completes in `s` responds with. For a narrow index or a layout index that is bad, where no
command completes, the value is of no account. -/
def responseValue (i : Instr) (s : State) : Wide :=
  match i with
  | .rdw => s.cw
  | .rdn => zext16 s.ch
  | .rds => zext16 s.syn
  | .rdst => statusWord s
  | .tstw idx => boolValue (s.cw.getLsbD idx.toNat)
  | .tstn idx => boolValue (s.ch.getLsbD idx.toNat)
  | .cntw => countValue (popCount s.cw)
  | .cntn => countValue (popCount s.ch)
  | .map idx => countValue ((dataToChar (wideIndex idx)).elim 0 Fin.val)
  | .cor => zext16 (correct s.cw).2
  | .ext => zext16 (toCharacter s.cw)
  | .dec imm => zext16 (decodeOne imm)
  | .ins imm => zext16 (inspect imm)
  | .ldw _ | .ldn _ | .setw _ | .flpw _ | .setn _ | .flpn _ => 0#16

/-- The state that a command leaves when it completes in `s`. -/
def completed (i : Instr) (s : State) : State := respond (responseValue i s) (afterWrites i s)

theorem exec_completes {i : Instr} {s : State} (hi : badIndex i = false) (h : readsUnwritten i s = false) :
    exec i s = .next (completed i s) := by
  obtain ⟨hcw, hch, hsyn⟩ := not_readsUnwritten_iff.mp h
  cases i with
  | ldw _ | ldn _ | rdst | dec _ | ins _ => rfl
  | rdw | tstw _ | setw _ | flpw _ | cntw | cor | ext => exact complete_readCw_written (hcw rfl) _
  | rdn | cntn => exact complete_readCh_written (hch rfl) _
  | rds => exact complete_readSyn_written (hsyn rfl) _
  | tstn _ | setn _ | flpn _ =>
    have hlt := Nat.lt_of_not_le (of_decide_eq_false hi)
    exact (complete_narrowIndex_inside s hlt _).trans (complete_readCh_written (hch rfl) _)
  | map idx =>
    have hinside : idx.toNat ∈ dataPositions := not_not.mp (of_decide_eq_false hi)
    obtain ⟨k, hk⟩ := Option.isSome_iff_exists.mp ((dataToChar_isSome_iff idx).mpr hinside)
    rw [exec_map_of_some hk, completed, responseValue, hk]
    rfl

/-- The state that a command leaves, whichever way it ends (R116). -/
def outcome (i : Instr) (s : State) : State :=
  if badIndex i then raise .indexRange s else if readsUnwritten i s then raise .unwritten s else completed i s

theorem exec_eq_outcome (i : Instr) (s : State) : exec i s = .next (outcome i s) := by
  unfold outcome
  split_ifs with hi hu
  · exact exec_of_badIndex hi s
  · exact exec_of_readsUnwritten (eq_false_of_ne_true hi) hu
  · exact exec_completes (eq_false_of_ne_true hi) (eq_false_of_ne_true hu)

/-- A command faults with nothing written, or it completes and every register it reads was written. -/
theorem outcome_cases (i : Instr) (s : State) :
    (∃ f, outcome i s = raise f s) ∨ (readsUnwritten i s = false ∧ outcome i s = completed i s) := by
  unfold outcome
  split_ifs with hi hu
  · exact .inl ⟨_, rfl⟩
  · exact .inl ⟨_, rfl⟩
  · exact .inr ⟨eq_false_of_ne_true hu, rfl⟩

/-- The flags alone decide whether a command would read an unwritten register. -/
theorem readsUnwritten_congr {s s' : State} (hw : s.vw = s'.vw) (hn : s.vn = s'.vn) (hs : s.vs = s'.vs) (i : Instr) :
    readsUnwritten i s = readsUnwritten i s' := by
  rw [readsUnwritten, readsUnwritten, hw, hn, hs]

/-- With the same flags a command takes the same fault in both states, or completes in both. -/
theorem outcome_same_flags {s s' : State} (hw : s.vw = s'.vw) (hn : s.vn = s'.vn) (hs : s.vs = s'.vs) (i : Instr) :
    (∃ f, outcome i s = raise f s ∧ outcome i s' = raise f s') ∨
      (readsUnwritten i s = false ∧ outcome i s = completed i s ∧ outcome i s' = completed i s') := by
  unfold outcome
  rw [← readsUnwritten_congr hw hn hs]
  split_ifs with hi hu
  · exact .inl ⟨_, rfl, rfl⟩
  · exact .inl ⟨_, rfl, rfl⟩
  · exact .inr ⟨eq_false_of_ne_true hu, rfl, rfl⟩

/-- Settles O48: the flags and the command decide which fault is taken, if any. -/
theorem statusIgnoresRegisterContents : Obligations.StatusIgnoresRegisterContents := by
  intro i s s' hw hn hs
  rw [exec_eq_outcome, exec_eq_outcome]
  obtain ⟨f, h, h'⟩ | ⟨-, h, h'⟩ := outcome_same_flags hw hn hs i <;> rw [h, h']
  · exact ⟨_, _, _, _, rfl, rfl, raise_response f s, raise_response f s', rfl⟩
  · exact ⟨_, _, _, _, rfl, rfl, respond_response _ _, respond_response _ _, rfl⟩

/-! What the writes of a command leave unchanged (10_state.md R16 to R18). -/

theorem afterWrites_cw_of_not_writesCw {i : Instr} (h : writesCw i = false) (s : State) :
    (afterWrites i s).cw = s.cw := by
  cases i with
  | ldw _ | dec _ | ins _ | setw _ | flpw _ | cor => cases h
  | _ => rfl

theorem afterWrites_ch_of_not_writesCh {i : Instr} (h : writesCh i = false) (s : State) :
    (afterWrites i s).ch = s.ch := by
  cases i with
  | ldn _ | ext | dec _ | ins _ | setn _ | flpn _ => cases h
  | _ => rfl

theorem afterWrites_syn_of_not_writesSyn {i : Instr} (h : writesSyn i = false) (s : State) :
    (afterWrites i s).syn = s.syn := by
  cases i with
  | cor | dec _ => cases h
  | _ => rfl

theorem afterWrites_resets (i : Instr) (s : State) : (afterWrites i s).resets = s.resets := by
  cases i <;> rfl

/-- Settles O50: a fault writes nothing, and a completion what `afterWrites` does. -/
theorem registersWrittenOnlyByTheirCommands : Obligations.RegistersWrittenOnlyByTheirCommands := by
  refine fun i s => ⟨_, exec_eq_outcome i s, ?_⟩
  obtain ⟨f, h⟩ | ⟨-, h⟩ := outcome_cases i s <;> rw [h]
  · exact ⟨fun _ => rfl, fun _ => rfl, fun _ => rfl, rfl, rfl⟩
  · exact ⟨fun hcw => afterWrites_cw_of_not_writesCw hcw s, fun hch => afterWrites_ch_of_not_writesCh hch s,
      fun hsyn => afterWrites_syn_of_not_writesSyn hsyn s, afterWrites_inputs i s, afterWrites_resets i s⟩

/-- A command that is listed to write no register writes nothing, flags included. -/
theorem afterWrites_of_reads {i : Instr} (hcw : writesCw i = false) (hch : writesCh i = false)
    (hsyn : writesSyn i = false) (s : State) : afterWrites i s = s := by
  cases i with
  | rdw | rdn | rds | rdst | tstw _ | cntw | tstn _ | cntn | map _ => rfl
  | ldw _ | dec _ | ins _ | setw _ | flpw _ | cor => cases hcw
  | ldn _ | ext | setn _ | flpn _ => cases hch

/-- No command reads the last response. -/
theorem responseValue_response (i : Instr) (s : State) (r : Option Response) :
    responseValue i { s with response := r } = responseValue i s := by
  cases i <;> rfl

theorem outcome_of_reads {i : Instr} (hcw : writesCw i = false) (hch : writesCh i = false)
    (hsyn : writesSyn i = false) (s : State) :
    ∃ r, ∀ r', outcome i { s with response := r' } = { s with response := some r } := by
  have hread (r' : Option Response) : readsUnwritten i { s with response := r' } = readsUnwritten i s := rfl
  simp only [outcome, hread]
  split_ifs
  · exact ⟨⟨.indexRange, 0#16⟩, fun _ => rfl⟩
  · exact ⟨⟨.unwritten, 0#16⟩, fun _ => rfl⟩
  · refine ⟨⟨.ok, responseValue i s⟩, fun r' => ?_⟩
    rw [completed, responseValue_response, afterWrites_of_reads hcw hch hsyn]
    rfl

/-- Settles O51: a read writes nothing, and its response rests on the registers and the flags alone. -/
theorem readsHaveNoSideEffect : Obligations.ReadsHaveNoSideEffect := by
  intro i s hcw hch hsyn
  obtain ⟨r, h⟩ := outcome_of_reads hcw hch hsyn s
  have hexec (r' : Option Response) : exec i { s with response := r' } = .next { s with response := some r } :=
    (exec_eq_outcome i _).trans (congrArg _ (h r'))
  exact ⟨r, hexec s.response, hexec⟩

end Sys2Proof.Machine
end

section
/-! PROOFS. The invariant of the machine (10_state.md R19, 30_encoding.md R54). -/

namespace Sys2Proof.Machine

/-- `COR` reads `CW`, and `DEC` sets both flags. -/
theorem setsVw_or_readsCw_of_setsVs {i : Instr} (h : setsVs i = true) : setsVw i = true ∨ readsCw i = true := by
  cases i with
  | cor => exact .inr rfl
  | dec _ => exact .inl rfl
  | _ => cases h

theorem raise_inv (f : FaultCode) {s : State} (h : s.vs = true → s.vw = true) : (raise f s).Inv := by
  refine ⟨h, fun r hr _ => ?_⟩
  cases hr
  rfl

theorem completed_inv {i : Instr} {s : State} (hread : readsUnwritten i s = false) (h : s.vs = true → s.vw = true) :
    (completed i s).Inv := by
  refine ⟨?_, fun r hr hne => ?_⟩
  · simp only [completed, respond_vs, respond_vw, afterWrites_vs, afterWrites_vw, Bool.or_eq_true]
    rintro (hvs | hsets)
    · exact .inl (h hvs)
    · exact (setsVw_or_readsCw_of_setsVs hsets).symm.imp_left (not_readsUnwritten_iff.mp hread).1
  · cases hr
    exact absurd rfl hne

theorem outcome_inv (i : Instr) {s : State} (h : s.vs = true → s.vw = true) : (outcome i s).Inv := by
  obtain ⟨f, ho⟩ | ⟨hread, ho⟩ := outcome_cases i s <;> rw [ho]
  · exact raise_inv f h
  · exact completed_inv hread h

theorem applyReset_inv (s : State) : (applyReset s).Inv := ⟨nofun, nofun⟩

theorem waitForHost_inv {s : State} (h : s.vs = true → s.vw = true) : (waitForHost s).Inv := ⟨h, nofun⟩

theorem step_of_idle {s : State} (h : s.inputs = []) : step s = .next (waitForHost s) := by
  simp [step, fetch, h]

/-- Settles O53: the response is new at every step, and `SYN` becomes valid only with `CW` valid. -/
theorem everyStepKeepsTheInvariant : Obligations.EveryStepKeepsTheInvariant := by
  rintro s ⟨hvs, -⟩
  obtain ⟨h, -⟩ | ⟨rest, h, -⟩ | ⟨w, rest, e, h, hd, -⟩ | ⟨w, rest, i, h, hd, -⟩ := fetch_cases s
  · exact ⟨_, step_of_idle h, waitForHost_inv hvs⟩
  · exact ⟨_, step_of_reset h, applyReset_inv _⟩
  · exact ⟨_, step_of_illegal h hd, raise_inv _ hvs⟩
  · exact ⟨_, (step_of_command h hd).trans (exec_eq_outcome i _), outcome_inv i hvs⟩

/-- Settles O54: no flag is set and nothing was put out. -/
theorem resetMeetsTheInvariant : Obligations.ResetMeetsTheInvariant := ⟨nofun, nofun⟩

end Sys2Proof.Machine
end

section
/-! PROOFS. What an unwritten register holds is never seen (10_state.md R20, 70_reset_and_hazards.md R125): a command
that completes has read written registers alone, and what it writes is made of those. -/

namespace Sys2Proof.Machine

/-- The two states agree on every register that `i` reads. -/
def AgreeOnReads (i : Instr) (s s' : State) : Prop :=
  (readsCw i = true → s.cw = s'.cw) ∧ (readsCh i = true → s.ch = s'.ch) ∧ (readsSyn i = true → s.syn = s'.syn)

/-- A command that completes reads registers that are written, in which the two states agree. -/
theorem SameToHost.agreeOnReads {s s' : State} (h : SameToHost s s') {i : Instr} (hread : readsUnwritten i s = false) :
    AgreeOnReads i s s' := by
  obtain ⟨-, -, -, hcw, hch, hsyn, -⟩ := h
  obtain ⟨rcw, rch, rsyn⟩ := not_readsUnwritten_iff.mp hread
  exact ⟨fun hr => hcw (rcw hr), fun hr => hch (rch hr), fun hr => hsyn (rsyn hr)⟩

theorem statusWord_congr {s s' : State} (hw : s.vw = s'.vw) (hn : s.vn = s'.vn) (hs : s.vs = s'.vs) :
    statusWord s = statusWord s' := by
  rw [statusWord, statusWord, hw, hn, hs]

section
variable {i : Instr} {s s' : State} (h : SameToHost s s') (hr : AgreeOnReads i s s')
include h hr

theorem responseValue_congr : responseValue i s = responseValue i s' := by
  obtain ⟨hw, hn, hs, -⟩ := h
  obtain ⟨hcw, hch, hsyn⟩ := hr
  cases i with
  | rdst => exact statusWord_congr hw hn hs
  | rdw | tstw _ | cntw | cor | ext => rw [responseValue, responseValue, hcw rfl]
  | rdn | tstn _ | cntn => rw [responseValue, responseValue, hch rfl]
  | rds => rw [responseValue, responseValue, hsyn rfl]
  | ldw _ | ldn _ | setw _ | flpw _ | setn _ | flpn _ | map _ | dec _ | ins _ => rfl

theorem afterWrites_cw_congr (hvw : (afterWrites i s).vw = true) : (afterWrites i s).cw = (afterWrites i s').cw := by
  obtain ⟨-, -, -, hcw, -⟩ := h
  obtain ⟨rcw, -⟩ := hr
  cases i with
  | ldw _ | dec _ | ins _ => rfl
  | setw _ | flpw _ | cor => simp only [afterWrites, writeCw_cw, setVs_cw, writeSyn_cw, rcw rfl]
  | _ => exact hcw hvw

theorem afterWrites_ch_congr (hvn : (afterWrites i s).vn = true) : (afterWrites i s).ch = (afterWrites i s').ch := by
  obtain ⟨-, -, -, -, hch, -⟩ := h
  obtain ⟨rcw, rch, -⟩ := hr
  cases i with
  | ldn _ | dec _ | ins _ => rfl
  | ext => simp only [afterWrites, setVn_ch, writeCh_ch, rcw rfl]
  | setn _ | flpn _ => simp only [afterWrites, writeCh_ch, rch rfl]
  | _ => exact hch hvn

theorem afterWrites_syn_congr (hvs : (afterWrites i s).vs = true) :
    (afterWrites i s).syn = (afterWrites i s').syn := by
  obtain ⟨-, -, -, -, -, hsyn, -⟩ := h
  obtain ⟨rcw, -⟩ := hr
  cases i with
  | dec _ => rfl
  | cor => simp only [afterWrites, setVs_syn, writeSyn_syn, rcw rfl]
  | _ => exact hsyn hvs

theorem sameToHost_completed : SameToHost (completed i s) (completed i s') := by
  obtain ⟨hw, hn, hs, -, -, -, hinputs, -⟩ := id h
  refine ⟨?_, ?_, ?_, afterWrites_cw_congr h hr, afterWrites_ch_congr h hr, afterWrites_syn_congr h hr, ?_, ?_⟩
  · simp [completed, hw]
  · simp [completed, hn]
  · simp [completed, hs]
  · simp [completed, afterWrites_inputs, hinputs]
  · simp [completed, responseValue_congr h hr]

end

theorem sameToHost_raise (f : FaultCode) {s s' : State} (h : SameToHost s s') :
    SameToHost (raise f s) (raise f s') := by
  obtain ⟨hw, hn, hs, hcw, hch, hsyn, hinputs, -⟩ := h
  exact ⟨hw, hn, hs, hcw, hch, hsyn, hinputs, rfl⟩

theorem sameToHost_outcome (i : Instr) {s s' : State} (h : SameToHost s s') :
    SameToHost (outcome i s) (outcome i s') := by
  obtain ⟨hw, hn, hs, -⟩ := id h
  obtain ⟨f, ho, ho'⟩ | ⟨hread, ho, ho'⟩ := outcome_same_flags hw hn hs i <;> rw [ho, ho']
  · exact sameToHost_raise f h
  · exact sameToHost_completed h (h.agreeOnReads hread)

theorem sameToHost_waitForHost {s s' : State} (h : SameToHost s s') :
    SameToHost (waitForHost s) (waitForHost s') := by
  obtain ⟨hw, hn, hs, hcw, hch, hsyn, hinputs, -⟩ := h
  exact ⟨hw, hn, hs, hcw, hch, hsyn, hinputs, rfl⟩

/-- After the reset event no register is written, so its content does not count. -/
theorem sameToHost_applyReset {s s' : State} (h : s.inputs = s'.inputs) :
    SameToHost (applyReset s) (applyReset s') :=
  ⟨rfl, rfl, rfl, nofun, nofun, nofun, h, rfl⟩

theorem sameToHost_take {s s' : State} (h : SameToHost s s') (rest : List HostInput) :
    SameToHost { s with inputs := rest } { s' with inputs := rest } := by
  obtain ⟨hw, hn, hs, hcw, hch, hsyn, -, hresponse⟩ := h
  exact ⟨hw, hn, hs, hcw, hch, hsyn, rfl, hresponse⟩

/-- Settles O55: both states take the same input, and a command takes the same fault in both or completes in both. -/
theorem unwrittenContentsAreNeverSeen : Obligations.UnwrittenContentsAreNeverSeen := by
  intro s s' h
  obtain ⟨-, -, -, -, -, -, hinputs, -⟩ := id h
  obtain ⟨hs, -⟩ | ⟨rest, hs, -⟩ | ⟨w, rest, e, hs, hd, -⟩ | ⟨w, rest, i, hs, hd, -⟩ := fetch_cases s <;>
    have hs' := hinputs.symm.trans hs
  · exact ⟨_, _, step_of_idle hs, step_of_idle hs', sameToHost_waitForHost h⟩
  · exact ⟨_, _, step_of_reset hs, step_of_reset hs', sameToHost_applyReset rfl⟩
  · exact ⟨_, _, step_of_illegal hs hd, step_of_illegal hs' hd, sameToHost_raise _ (sameToHost_take h rest)⟩
  · rw [step_of_command hs hd, step_of_command hs' hd, exec_eq_outcome, exec_eq_outcome]
    exact ⟨_, _, rfl, rfl, sameToHost_outcome i (sameToHost_take h rest)⟩

end Sys2Proof.Machine
end

section
/-! PROOFS. The step (10_state.md R22, 20_memory.md R41), and the first command after reset (70_reset_and_hazards.md
R128). -/

namespace Sys2Proof.Machine

theorem step_presentFirst_encode (i : Instr) (s : State) : step (presentFirst (encode i) s) = exec i s :=
  step_of_command (presentFirst_inputs _ s) (decode_encode i)

theorem tableWord_toNat (w : CmdWord) : tableWord 32 w.toNat = w := by
  rw [tableWord, Nat.mod_eq_of_lt w.isLt, BitVec.ofNat_toNat, BitVec.setWidth_eq]

theorem step_withFetchWord_encode (i : Instr) (s : State) :
    step (s.withFetchWord 32 (encode i).toNat) = exec i s := by
  rw [State.withFetchWord, tableWord_toNat, step_presentFirst_encode]

/-- Settles O6: the step takes the word, decodes it, and runs the command. -/
theorem stepRunsTheDecodedCommand : Obligations.StepRunsTheDecodedCommand :=
  ⟨fun _ _ _ _ => step_of_command, fun s i => step_withFetchWord_encode i s⟩

/-- Settles O7: `waitForHost` and `applyReset` put no response out. -/
theorem stepWithoutCommandPutsNothingOut : Obligations.StepWithoutCommandPutsNothingOut :=
  ⟨fun _ => step_of_idle, fun _ _ h => ⟨_, step_of_reset h, rfl, rfl⟩⟩

/-- Settles O9: at reset no flag is set, so a command that reads a register reads an unwritten one. -/
theorem firstCommandAfterReset : Obligations.FirstCommandAfterReset := by
  refine ⟨rfl, rfl, rfl, fun i => ?_, ?_⟩
  · obtain ⟨t, r, hexec, hresponse, -, hstatus, -⟩ := exec_answersWith i State.reset
    rw [readsUnwritten_of_flags_clear rfl rfl rfl] at hstatus
    exact ⟨t, r.value, (step_presentFirst_encode i _).trans hexec, by rw [hresponse, ← hstatus]⟩
  · have hstatus : statusWord State.reset = 0#16 := statusWord_eq_sum State.reset
    rw [step_presentFirst_encode, ← hstatus]
    rfl

end Sys2Proof.Machine
end

section
/-! PROOFS. The laws of the BitField primitives (40_bitfield.md section 1), at any width. -/

namespace Sys2Proof.Machine

theorem isBitSet_setBit_same {n : Nat} (v : BitVec n) (i : Fin n) : isBitSet (setBit v i) i = true := by
  rw [isBitSet_eq, setBit_getLsbD, decide_eq_true rfl, Bool.or_true]

theorem isBitSet_setBit_of_ne {n : Nat} (v : BitVec n) {i j : Fin n} (h : j ≠ i) :
    isBitSet (setBit v i) j = isBitSet v j :=
  setBit_getLsbD_of_ne v i (Fin.val_ne_of_ne h)

theorem setBit_of_set {n : Nat} {v : BitVec n} {i : Fin n} (h : isBitSet v i = true) : setBit v i = v := by
  refine BitVec.eq_of_getLsbD_eq fun j _ => ?_
  rw [setBit_getLsbD]
  by_cases hj : j = i.val
  · rw [hj, ← isBitSet_eq, h, Bool.true_or]
  · rw [decide_eq_false hj, Bool.or_false]

theorem setBit_of_clear {n : Nat} {v : BitVec n} {i : Fin n} (h : isBitSet v i = false) : setBit v i = flipBit v i := by
  refine BitVec.eq_of_getLsbD_eq fun j _ => ?_
  rw [setBit_getLsbD, flipBit_getLsbD]
  by_cases hj : j = i.val
  · rw [hj, ← isBitSet_eq, h, Bool.false_or, Bool.false_xor]
  · rw [decide_eq_false hj, Bool.or_false, Bool.xor_false]

theorem setBit_setBit {n : Nat} (v : BitVec n) (i : Fin n) : setBit (setBit v i) i = setBit v i :=
  setBit_of_set (isBitSet_setBit_same v i)

/-- Settles O30: the laws hold at every width, so at 8 and 16. -/
theorem setBitSetsAndClearsNothing : Obligations.SetBitSetsAndClearsNothing := fun _ _ v i =>
  ⟨isBitSet_setBit_same v i, fun _ => isBitSet_setBit_of_ne v, setBit_setBit v i⟩

theorem isBitSet_flipBit_same {n : Nat} (v : BitVec n) (i : Fin n) : isBitSet (flipBit v i) i = !isBitSet v i := by
  rw [isBitSet_eq, flipBit_getLsbD, decide_eq_true rfl, Bool.xor_true, isBitSet_eq]

theorem isBitSet_flipBit_of_ne {n : Nat} (v : BitVec n) {i j : Fin n} (h : j ≠ i) :
    isBitSet (flipBit v i) j = isBitSet v j :=
  flipBit_getLsbD_of_ne v i (Fin.val_ne_of_ne h)

/-- Settles O31: the laws hold at every width, so at 8 and 16. -/
theorem flipBitIsAnInvolution : Obligations.FlipBitIsAnInvolution := fun _ _ v i =>
  ⟨flipBit_flipBit v i, isBitSet_flipBit_same v i, fun _ => isBitSet_flipBit_of_ne v⟩

theorem popCount_zero {n : Nat} : popCount 0#n = 0 := by
  simp [popCount_eq_sum]

theorem popCount_twoPow {n : Nat} (i : Fin n) : popCount (BitVec.twoPow n i.val) = 1 := by
  rw [popCount_eq_sum, Fintype.sum_eq_single i fun j hj => ?_]
  · simp
  · simp [Fin.val_ne_of_ne hj]

/-- A flip adds 1 where the bit was 0 and takes 1 away where it was 1. -/
theorem popCount_flipBit {n : Nat} (v : BitVec n) (i : Fin n) :
    popCount (flipBit v i) + 2 * (isBitSet v i).toNat = popCount v + 1 := by
  have hmeet : popCount (v &&& BitVec.twoPow n i.val) = (isBitSet v i).toNat := by
    rw [BitVec.and_twoPow, ← isBitSet_eq]
    cases isBitSet v i with
    | true => exact popCount_twoPow i
    | false => exact popCount_zero
  have hxor : popCount (flipBit v i) + 2 * popCount (v &&& BitVec.twoPow n i.val) =
      popCount v + popCount (BitVec.twoPow n i.val) := countBelow_xor v (BitVec.twoPow n i.val) n
  rwa [hmeet, popCount_twoPow] at hxor

/-- Setting a bit that is 0 is a flip, and setting one that is 1 changes nothing. -/
theorem popCount_setBit {n : Nat} (v : BitVec n) (i : Fin n) :
    popCount (setBit v i) = popCount v + (1 - (isBitSet v i).toNat) := by
  cases h : isBitSet v i with
  | true => rw [setBit_of_set h]; rfl
  | false =>
    have hflip := popCount_flipBit v i
    rw [h] at hflip
    rw [setBit_of_clear h]
    exact hflip

theorem popCount_le {n : Nat} (v : BitVec n) : popCount v ≤ n := countBelow_le v n

/-- A permutation of the bits permutes the terms of the sum. -/
theorem popCount_perm {n : Nat} {u v : BitVec n} (σ : Equiv.Perm (Fin n))
    (h : ∀ i, isBitSet u i = isBitSet v (σ i)) : popCount u = popCount v := by
  rw [popCount_eq_sum, popCount_eq_sum, ← Equiv.sum_comp σ fun j => (v.getLsbD j.val).toNat]
  exact Finset.sum_congr rfl fun i _ => congrArg Bool.toNat (h i)

/-- Settles O32: `pop_count` as a sum gives the first three laws, and the count of an exclusive OR the last two. -/
theorem popCountLaws : Obligations.PopCountLaws := fun _ v =>
  ⟨popCount_eq_sum v, popCount_le v, fun _ σ => popCount_perm σ, popCount_setBit v, popCount_flipBit v⟩

end Sys2Proof.Machine
end

section
/-! PROOFS. The masks and the syndrome (41_layout.md R76, 42_corrector.md R85, R88). -/

namespace Sys2Proof.Machine

/-- Which bits a mask holds, by position number (R76). -/
theorem Parity.mask_getLsbD (p : Parity) (j : Nat) :
    p.mask.getLsbD j = (decide (j ∈ dataPositions) && decide (j &&& p.weight.toNat ≠ 0)) := by
  by_cases hj : j < 16
  · have hsmall : ∀ k : Fin 16, p.mask.getLsbD k.val =
        (decide (k.val ∈ dataPositions) && decide (k.val &&& p.weight.toNat ≠ 0)) := by
      cases p <;> decide
    exact hsmall ⟨j, hj⟩
  · have hnot : j ∉ dataPositions := fun hmem => hj ((by decide : ∀ k ∈ dataPositions, k < 16) j hmem)
    rw [BitVec.getLsbD_of_ge _ _ (Nat.le_of_not_lt hj), decide_eq_false hnot, Bool.false_and]

/-- Settles O33: the mask keeps the bits it holds. -/
theorem masksCoverByPositionNumber : Obligations.MasksCoverByPositionNumber := by
  intro cw p j
  rw [group, BitVec.getLsbD_and, p.mask_getLsbD, Bool.and_assoc]

/-- Each check is a bit of the syndrome: the weights are 1, 2, 4 and 8 (R85). -/
theorem syndrome_getLsbD (cw : Wide) : ∀ pk ∈ [(Parity.p1, 0), (.p2, 1), (.p4, 2), (.p8, 3)],
    (syndrome cw).getLsbD pk.2 = checkFails cw pk.1 := by
  simp only [syndrome_eq_append, List.mem_cons, List.not_mem_nil, or_false, forall_eq_or_imp, forall_eq]
  generalize checkFails cw .p1 = c1, checkFails cw .p2 = c2, checkFails cw .p4 = c4, checkFails cw .p8 = c8
  decide +revert

/-- Settles O36: four weights that add up with no carry are four bits. -/
theorem syndromeIsSumOfFailingWeights : Obligations.SyndromeIsSumOfFailingWeights := fun cw =>
  ⟨syndrome_toNat cw, syndrome_getLsbD cw⟩

theorem validCodeword_iff (v : Wide) : ValidCodeword v ↔ syndrome v = 0#4 := by
  refine ⟨syndrome_of_valid, fun h => ?_⟩
  have hbit := syndrome_getLsbD v
  simp only [h, BitVec.getLsbD_zero] at hbit
  intro p _
  cases p with
  | p1 => exact (hbit (.p1, 0) (by decide)).symm
  | p2 => exact (hbit (.p2, 1) (by decide)).symm
  | p4 => exact (hbit (.p4, 2) (by decide)).symm
  | p8 => exact (hbit (.p8, 3) (by decide)).symm

/-- Two functions that turn exclusive OR into exclusive OR are equal when they agree on every word with one bit set:
strike out the bits of a word from the top. -/
theorem eq_of_xor_of_twoPow {n m : Nat} {f g : BitVec n → BitVec m} (hf : ∀ v u, f (v ^^^ u) = f v ^^^ f u)
    (hg : ∀ v u, g (v ^^^ u) = g v ^^^ g u) (h : ∀ i : Fin n, f (BitVec.twoPow n i.val) = g (BitVec.twoPow n i.val))
    (v : BitVec n) : f v = g v := by
  suffices hbelow : ∀ k ≤ n, ∀ v : BitVec n, (∀ j ≥ k, v.getLsbD j = false) → f v = g v from
    hbelow n le_rfl v fun j hj => BitVec.getLsbD_of_ge v j hj
  intro k
  induction k with
  | zero =>
    intro _ v hv
    have hzero : v = v ^^^ v := by
      rw [BitVec.xor_self]
      exact BitVec.eq_of_getLsbD_eq fun j _ => by rw [hv j (Nat.zero_le j), BitVec.getLsbD_zero]
    rw [hzero, hf, hg, BitVec.xor_self, BitVec.xor_self]
  | succ k ih =>
    intro hk v hv
    by_cases hbit : v.getLsbD k = true
    · have hrest : f (flipBit v ⟨k, hk⟩) = g (flipBit v ⟨k, hk⟩) := by
        refine ih (Nat.le_of_succ_le hk) _ fun j hj => ?_
        obtain rfl | hj := Nat.eq_or_lt_of_le hj
        · simp [flipBit_getLsbD, hbit]
        · rw [flipBit_getLsbD_of_ne _ _ (Nat.ne_of_gt hj), hv j hj]
      rw [← flipBit_flipBit v ⟨k, hk⟩, flipBit, hf, hg, hrest, h]
    · refine ih (Nat.le_of_succ_le hk) v fun j hj => ?_
      obtain rfl | hj := Nat.eq_or_lt_of_le hj
      · exact eq_false_of_ne_true hbit
      · exact hv j hj

/-- One step of the loop of `xorOfSetPositions`. -/
def addPosition (cw : Wide) (x : Syndrome) (b : Nat) : Syndrome :=
  if cw.getLsbD b then x ^^^ BitVec.ofNat 4 b else x

theorem xorOfSetPositions_eq_foldl (cw : Wide) :
    xorOfSetPositions cw = [1, 2, 3, 4, 5, 6, 7, 8, 9, 10, 11, 12].foldl (addPosition cw) 0#4 := rfl

theorem addPosition_xor (v u : Wide) (x y : Syndrome) (b : Nat) :
    addPosition (v ^^^ u) (x ^^^ y) b = addPosition v x b ^^^ addPosition u y b := by
  simp only [addPosition, BitVec.getLsbD_xor]
  generalize BitVec.ofNat 4 b = n
  cases v.getLsbD b with
  | false => cases u.getLsbD b with
    | false => rfl
    | true => exact BitVec.xor_assoc x y n
  | true => cases u.getLsbD b with
    | false =>
      change x ^^^ y ^^^ n = x ^^^ n ^^^ y
      ac_rfl
    | true =>
      calc x ^^^ y = x ^^^ y ^^^ (n ^^^ n) := by rw [BitVec.xor_self, BitVec.xor_zero]
        _ = x ^^^ n ^^^ (y ^^^ n) := by ac_rfl

theorem foldl_addPosition_xor (v u : Wide) (positions : List Nat) (x y : Syndrome) :
    positions.foldl (addPosition (v ^^^ u)) (x ^^^ y) =
      positions.foldl (addPosition v) x ^^^ positions.foldl (addPosition u) y := by
  induction positions generalizing x y with
  | nil => rfl
  | cons b positions ih => rw [List.foldl_cons, List.foldl_cons, List.foldl_cons, addPosition_xor, ih]

theorem xorOfSetPositions_xor (v u : Wide) :
    xorOfSetPositions (v ^^^ u) = xorOfSetPositions v ^^^ xorOfSetPositions u := by
  simp only [xorOfSetPositions_eq_foldl, ← foldl_addPosition_xor, BitVec.xor_zero]

/-- Settles O37: both sides turn exclusive OR into exclusive OR, and agree on the sixteen words with one bit set. -/
theorem syndromeIsXorOfSetPositions : Obligations.SyndromeIsXorOfSetPositions :=
  eq_of_xor_of_twoPow syndrome_xor xorOfSetPositions_xor (by decide)

theorem syndrome_flipBit (cw : Wide) (b : Fin 16) : syndrome (flipBit cw b) =
    if 1 ≤ b.val ∧ b.val ≤ 12 then syndrome cw ^^^ BitVec.ofNat 4 b.val else syndrome cw := by
  rw [flipBit, syndrome_xor, syndrome_twoPow]
  split_ifs
  · rfl
  · rw [BitVec.xor_zero]

/-- Settles O38: a flip is an exclusive OR with a word of one bit. -/
theorem flipMovesTheSyndromeByItsPosition : Obligations.FlipMovesTheSyndromeByItsPosition :=
  ⟨by decide, syndrome_flipBit⟩

end Sys2Proof.Machine
end

section
/-! PROOFS. A second correction, and two errors (42_corrector.md R90, R91). -/

namespace Sys2Proof.Machine

/-- A flip at a position 1 to 12 takes the syndrome to 0, and one outside the code leaves it. -/
theorem syndrome_correct (cw : Wide) :
    syndrome (correct cw).1 = if (syndrome cw).toNat ≤ 12 then 0#4 else syndrome cw := by
  by_cases h : syndrome cw = 0#4
  · rw [correct_of_zero h, h]; rfl
  · have hpos : 1 ≤ (syndrome cw).toNat := Nat.one_le_iff_ne_zero.mpr (BitVec.toNat_ne.mp h)
    have hval : (syndrome cw).toFin.val = (syndrome cw).toNat := rfl
    rw [correct_of_nonzero h, syndrome_flipBit, hval, BitVec.ofNat_toNat, BitVec.setWidth_eq, BitVec.xor_self]
    simp only [hpos, true_and]

theorem correct_correct_of_inside {cw : Wide} (h : (syndrome cw).toNat ≤ 12) :
    ValidCodeword (correct cw).1 ∧ correct (correct cw).1 = ((correct cw).1, 0#4) := by
  have hvalid : ValidCodeword (correct cw).1 := (validCodeword_iff _).mpr (by rw [syndrome_correct, if_pos h])
  exact ⟨hvalid, correct_of_valid hvalid⟩

/-- The second correction flips the same bit back. -/
theorem correct_correct_of_outside {cw : Wide} (h : 13 ≤ (syndrome cw).toNat) :
    correct (correct cw).1 = (cw, syndrome cw) := by
  have hsyn : syndrome (correct cw).1 = syndrome cw := by rw [syndrome_correct, if_neg (Nat.not_le_of_lt h)]
  have hne : syndrome cw ≠ 0#4 := BitVec.toNat_ne.mpr (Nat.ne_of_gt (Nat.lt_of_lt_of_le (by decide) h))
  refine Prod.ext ?_ ((correct_syndrome _).trans hsyn)
  rw [correct_of_nonzero (hsyn ▸ hne), hsyn, correct_of_nonzero hne, flipBit_flipBit]

/-- Settles O40: the syndrome of a corrected word decides. -/
theorem secondCorrection : Obligations.SecondCorrection := fun _ =>
  ⟨correct_correct_of_inside, correct_correct_of_outside⟩

theorem exec_cor_written {s : State} (h : s.vw = true) : exec .cor s = .next (completed .cor s) :=
  complete_readCw_written h _

/-- Settles O41: the two flips move the syndrome from 0 by `b1` and by `b2`, and `COR` checks no syndrome. -/
theorem twoErrorsAreProcessedNotDetected : Obligations.TwoErrorsAreProcessedNotDetected := by
  intro v b1 b2 hv hlo1 hhi1 hlo2 hhi2 hne
  have hsyn : syndrome (flipBit (flipBit v b1) b2) = BitVec.ofNat 4 b1.val ^^^ BitVec.ofNat 4 b2.val := by
    rw [syndrome_flipBit_of_inside _ hlo2 hhi2, syndrome_flipBit_of_inside _ hlo1 hhi1, syndrome_of_valid hv,
      BitVec.zero_xor]
  refine ⟨hsyn, fun hzero => ?_, fun s hw _ => ⟨_, _, exec_cor_written hw, respond_response _ _⟩⟩
  have hword : BitVec.ofNat 4 b1.val = BitVec.ofNat 4 b2.val := BitVec.xor_eq_zero_iff.mp (hsyn.symm.trans hzero)
  have hval := congrArg BitVec.toNat hword
  rw [BitVec.toNat_ofNat, BitVec.toNat_ofNat, Nat.mod_eq_of_lt b1.isLt, Nat.mod_eq_of_lt b2.isLt] at hval
  exact hne (Fin.ext hval)

end Sys2Proof.Machine
end

section
/-! PROOFS. The character as a function of the codeword (43_extractor.md section 1, 44_interface_ops.md section 1): it
is the eight data bits, so a flip at a data position flips its character bit and any other flip leaves it. -/

namespace Sys2Proof.Machine

/-- The table feeds every character bit. -/
theorem exists_mem_charOf (k : Fin 8) : ∃ b, (b, k) ∈ charOf := by
  revert k
  decide

/-- Two characters are equal when they agree on the character bit of every entry of the table. -/
theorem narrow_eq_of_charOf {x y : Narrow} (h : ∀ bk ∈ charOf, x.getLsbD bk.2.val = y.getLsbD bk.2.val) : x = y := by
  refine BitVec.eq_of_getLsbD_eq fun j hj => ?_
  obtain ⟨b, hb⟩ := exists_mem_charOf ⟨j, hj⟩
  exact h _ hb

theorem dataPositions_eq_map_charOf : dataPositions = charOf.map fun bk => bk.1.val := rfl

theorem toCharacter_eq_iff (cw cw' : Wide) :
    toCharacter cw = toCharacter cw' ↔ ∀ b ∈ dataPositions, cw.getLsbD b = cw'.getLsbD b := by
  rw [dataPositions_eq_map_charOf, List.forall_mem_map]
  constructor
  · intro h bk hbk
    rw [← toCharacter_getLsbD_of_mem cw bk hbk, h, toCharacter_getLsbD_of_mem cw' bk hbk]
  · intro h
    refine narrow_eq_of_charOf fun bk hbk => ?_
    rw [toCharacter_getLsbD_of_mem cw bk hbk, toCharacter_getLsbD_of_mem cw' bk hbk, h bk hbk]

/-- The codeword with the character's bits at the data positions, and 0 elsewhere. -/
def spread (c : Narrow) : Wide := BitVec.ofFnLE fun b => (dataToChar b).elim false fun k => c.getLsbD k.val

theorem toCharacter_spread (c : Narrow) : toCharacter (spread c) = c := by
  refine narrow_eq_of_charOf fun bk hbk => ?_
  rw [toCharacter_getLsbD_of_mem _ bk hbk, spread, BitVec.getLsbD_ofFnLE, dif_pos bk.1.isLt,
    dataToChar_of_mem_charOf bk hbk]
  rfl

/-- Settles O43: the eight data bits are the character, and any eight bits can stand at the data positions. -/
theorem characterDeterminedByDataBits : Obligations.CharacterDeterminedByDataBits :=
  ⟨toCharacter_eq_iff, fun c => ⟨spread c, toCharacter_spread c⟩⟩

theorem toCharacter_xor (v u : Wide) : toCharacter (v ^^^ u) = toCharacter v ^^^ toCharacter u := by
  refine narrow_eq_of_charOf fun bk hbk => ?_
  rw [BitVec.getLsbD_xor, toCharacter_getLsbD_of_mem _ bk hbk, toCharacter_getLsbD_of_mem _ bk hbk,
    toCharacter_getLsbD_of_mem _ bk hbk, BitVec.getLsbD_xor]

/-- The character of a lone bit is its character bit, where the table gives it one (R77). -/
theorem toCharacter_twoPow : ∀ b : Fin 16,
    toCharacter (BitVec.twoPow 16 b.val) = (dataToChar b).elim 0#8 fun k => BitVec.twoPow 8 k.val := by
  decide

theorem toCharacter_flipBit_of_none {b : Fin 16} (h : dataToChar b = none) (v : Wide) :
    toCharacter (flipBit v b) = toCharacter v := by
  rw [flipBit, toCharacter_xor, toCharacter_twoPow, h, Option.elim_none, BitVec.xor_zero]

theorem toCharacter_flipBit_of_some {b : Fin 16} {k : Fin 8} (h : dataToChar b = some k) (v : Wide) :
    toCharacter (flipBit v b) = flipBit (toCharacter v) k := by
  rw [flipBit, toCharacter_xor, toCharacter_twoPow, h, Option.elim_some, flipBit]

theorem decodeOne_of_valid {v : Wide} (h : ValidCodeword v) : decodeOne v = toCharacter v := by
  rw [decodeOne, correct_of_valid h]

/-- A flip outside the code leaves the syndrome 0, and the bit is no data bit. -/
theorem decodeOne_flipBit_of_outside {v : Wide} (h : ValidCodeword v) {b : Fin 16}
    (hb : ¬(1 ≤ b.val ∧ b.val ≤ 12)) : decodeOne (flipBit v b) = toCharacter v := by
  have hnone : dataToChar b = none :=
    (by decide : ∀ b : Fin 16, ¬(1 ≤ b.val ∧ b.val ≤ 12) → dataToChar b = none) b hb
  have hvalid : ValidCodeword (flipBit v b) := by
    rw [validCodeword_iff, syndrome_flipBit, if_neg hb, syndrome_of_valid h]
  rw [decodeOne_of_valid hvalid, toCharacter_flipBit_of_none hnone]

/-- Settles O44: a flip at 1 to 12 is corrected, and one outside the code touches no data bit. -/
theorem decodeOneRecoversTheCharacter : Obligations.DecodeOneRecoversTheCharacter := by
  refine fun v hv => ⟨decodeOne_of_valid hv, fun b => ?_⟩
  by_cases hb : 1 ≤ b.val ∧ b.val ≤ 12
  · rw [decodeOne, correct_flipBit_of_valid hv hb.1 hb.2]
  · exact decodeOne_flipBit_of_outside hv hb

/-- The syndromes that name no data position, 0 among them (R77). -/
theorem dataToChar_eq_none_iff (syn : Syndrome) :
    dataToChar syn.toFin = none ↔ syn.toNat ∈ [0, 1, 2, 4, 8, 13, 14, 15] := by
  decide +revert

/-- Where the syndrome names no data position, correction leaves the character. -/
theorem decodeOne_of_none {raw : Wide} (h : dataToChar (syndrome raw).toFin = none) : decodeOne raw = inspect raw := by
  rw [decodeOne, inspect]
  by_cases hzero : syndrome raw = 0#4
  · rw [correct_of_zero hzero]
  · rw [correct_of_nonzero hzero, toCharacter_flipBit_of_none h]

/-- Where the syndrome names a data position, correction flips the character bit of that position. -/
theorem decodeOne_of_some {raw : Wide} {k : Fin 8} (h : dataToChar (syndrome raw).toFin = some k) :
    decodeOne raw = flipBit (inspect raw) k := by
  have hne : syndrome raw ≠ 0#4 := by
    intro hzero
    rw [hzero, show dataToChar (0#4).toFin = none by decide] at h
    cases h
  rw [decodeOne, inspect, correct_of_nonzero hne, toCharacter_flipBit_of_some h]

theorem xor_flipBit_self {n : Nat} (v : BitVec n) (i : Fin n) : v ^^^ flipBit v i = 1#n <<< i.val := by
  rw [flipBit_eq_xor_shift, ← BitVec.xor_assoc, BitVec.xor_self, BitVec.zero_xor]

theorem flipBit_ne_self {n : Nat} (v : BitVec n) (i : Fin n) : flipBit v i ≠ v := by
  intro h
  have hbit := isBitSet_flipBit_same v i
  rw [h] at hbit
  exact (Bool.not_ne_self _).symm hbit

/-- Settles O45: whether the syndrome names a data position decides. -/
theorem inspectEqualsDecodeOneExactlyWhen : Obligations.InspectEqualsDecodeOneExactlyWhen := by
  intro raw
  rw [← dataToChar_eq_none_iff]
  cases h : dataToChar (syndrome raw).toFin with
  | none =>
    rw [decodeOne_of_none h]
    exact ⟨iff_of_true rfl rfl, fun hne => absurd rfl hne⟩
  | some k =>
    rw [decodeOne_of_some h]
    exact ⟨iff_of_false (flipBit_ne_self _ k).symm nofun, fun _ => ⟨k, xor_flipBit_self _ k⟩⟩

end Sys2Proof.Machine
end

section
/-! PROOFS. A command done twice (20_memory.md R40, 42_corrector.md R93). -/

namespace Sys2Proof.Machine

/-- No command clears a flag, so what could be read before it can be read after it. -/
theorem readsUnwritten_completed {i : Instr} {s : State} (h : readsUnwritten i s = false) (j : Instr) :
    readsUnwritten i (completed j s) = false := by
  obtain ⟨hcw, hch, hsyn⟩ := not_readsUnwritten_iff.mp h
  refine not_readsUnwritten_iff.mpr ⟨fun hr => ?_, fun hr => ?_, fun hr => ?_⟩
  · simp [completed, hcw hr]
  · simp [completed, hch hr]
  · simp [completed, hsyn hr]

/-- A command that faults once faults again, with nothing written; one that completes once completes again. -/
theorem exec_twice (i : Instr) (s : State) :
    (∃ f, exec i s = .next (raise f s) ∧ exec i (raise f s) = .next (raise f s)) ∨
      (exec i s = .next (completed i s) ∧ exec i (completed i s) = .next (completed i (completed i s))) := by
  cases hi : badIndex i with
  | true => exact .inl ⟨.indexRange, exec_of_badIndex hi s, exec_of_badIndex hi _⟩
  | false =>
    cases hu : readsUnwritten i s with
    | true => exact .inl ⟨.unwritten, exec_of_readsUnwritten hi hu, exec_of_readsUnwritten (s := raise _ s) hi hu⟩
    | false => exact .inr ⟨exec_completes hi hu, exec_completes hi (readsUnwritten_completed hu i)⟩

/-- A command whose second completion leaves what its first left. -/
theorem exec_idempotent {i : Instr} {s : State} (h : completed i (completed i s) = completed i s) :
    ∃ t, exec i s = .next t ∧ exec i t = .next t := by
  obtain ⟨f, hfirst, hsecond⟩ | ⟨hfirst, hsecond⟩ := exec_twice i s
  · exact ⟨_, hfirst, hsecond⟩
  · exact ⟨_, hfirst, hsecond.trans (congrArg _ h)⟩

/-- A command whose second completion restores every register. -/
theorem exec_involution {i : Instr} {s : State} (h : SameRegisters (completed i (completed i s)) s) :
    ∃ t u, exec i s = .next t ∧ exec i t = .next u ∧ SameRegisters u s := by
  obtain ⟨f, hfirst, hsecond⟩ | ⟨hfirst, hsecond⟩ := exec_twice i s
  · exact ⟨_, _, hfirst, hsecond, rfl, rfl, rfl, rfl, rfl, rfl⟩
  · exact ⟨_, _, hfirst, hsecond, h⟩

theorem completed_setw_twice (idx : BitIdx) (s : State) :
    completed (.setw idx) (completed (.setw idx) s) = completed (.setw idx) s := by
  simp only [completed, afterWrites, responseValue, respond, writeCw, BitVec.or_assoc, BitVec.or_self]

theorem completed_setn_twice (idx : BitIdx) (s : State) :
    completed (.setn idx) (completed (.setn idx) s) = completed (.setn idx) s := by
  simp only [completed, afterWrites, responseValue, respond, writeCh, BitVec.or_assoc, BitVec.or_self]

theorem completed_flpw_twice_cw (idx : BitIdx) (s : State) :
    (completed (.flpw idx) (completed (.flpw idx) s)).cw = s.cw :=
  flipBit_flipBit s.cw (wideIndex idx)

theorem completed_flpn_twice_ch (idx : BitIdx) (s : State) :
    (completed (.flpn idx) (completed (.flpn idx) s)).ch = s.ch := by
  simp only [completed, afterWrites, respond_ch, writeCh_ch, BitVec.xor_assoc, BitVec.xor_self, BitVec.xor_zero]

theorem completed_cor_cw (s : State) : (completed .cor s).cw = (correct s.cw).1 := rfl

/-- `COR` leaves what the corrector makes of `CW`. -/
theorem completed_cor {s : State} {cw : Wide} {syn : Syndrome} (h : correct s.cw = (cw, syn)) : completed .cor s =
    { s with cw := cw, syn := syn, vs := true, response := some ⟨.ok, syn.setWidth 16⟩ } := by
  have hcw : (correct s.cw).1 = cw := congrArg Prod.fst h
  have hsyn : (correct s.cw).2 = syn := congrArg Prod.snd h
  rw [← hcw, ← hsyn]
  rfl

theorem exec_cor_twice {s : State} (h : s.vw = true) :
    exec .cor (completed .cor s) = .next (completed .cor (completed .cor s)) :=
  exec_cor_written h

/-- Nothing is left to correct: `CW` stays and `SYN` becomes 0. -/
theorem completed_cor_twice_of_inside {s : State} (h : (syndrome s.cw).toNat ≤ 12) :
    completed .cor (completed .cor s) =
      { completed .cor s with syn := 0#4, response := some ⟨.ok, 0#16⟩ } := by
  obtain ⟨-, hsecond⟩ := correct_correct_of_inside h
  rw [← completed_cor_cw] at hsecond
  rw [completed_cor hsecond]
  rfl

/-- The bit outside the code is flipped back. -/
theorem completed_cor_twice_of_outside {s : State} (h : 13 ≤ (syndrome s.cw).toNat) :
    completed .cor (completed .cor s) = { completed .cor s with cw := s.cw } := by
  have hsecond := correct_correct_of_outside h
  rw [← correct_syndrome, ← completed_cor_cw] at hsecond
  rw [completed_cor hsecond]
  rfl

/-- Settles O25: a second `COR` corrects the corrected word. -/
theorem corCorrectsCodewordRegister : Obligations.CorCorrectsCodewordRegister := by
  refine ⟨by decide, fun s hw => ⟨_, exec_cor_written hw, rfl, fun h => ?_, fun h => ?_⟩,
    fun _ hu => complete_readCw_unwritten hu _⟩
  · rw [correct_syndrome] at h
    rw [exec_cor_twice hw, completed_cor_twice_of_inside h]
  · rw [correct_syndrome] at h
    rw [exec_cor_twice hw, completed_cor_twice_of_outside h]

/-- Settles O52: the idempotent commands and the involutions one by one, and `COR` by its second correction. -/
theorem repeatedCommands : Obligations.RepeatedCommands := by
  refine ⟨?_, ?_, fun s hw => ⟨_, _, exec_cor_written hw, exec_cor_twice hw, ?_⟩⟩
  · rintro i s (⟨idx, rfl | rfl⟩ | ⟨imm, rfl | rfl | rfl⟩ | ⟨imm, rfl⟩ | rfl)
    · exact exec_idempotent (completed_setw_twice idx s)
    · exact exec_idempotent (completed_setn_twice idx s)
    · exact exec_idempotent (i := .ldw imm) rfl
    · exact exec_idempotent (i := .ins imm) rfl
    · exact exec_idempotent (i := .dec imm) rfl
    · exact exec_idempotent (i := .ldn imm) rfl
    · exact exec_idempotent (i := .ext) rfl
  · rintro i s ⟨idx, rfl | rfl⟩
    · exact exec_involution ⟨completed_flpw_twice_cw idx s, rfl, rfl, rfl, rfl, rfl⟩
    · exact exec_involution ⟨rfl, completed_flpn_twice_ch idx s, rfl, rfl, rfl, rfl⟩
  · split_ifs with h
    · rw [completed_cor_twice_of_inside h]
    · rw [completed_cor_twice_of_outside (Nat.lt_of_not_le h)]

end Sys2Proof.Machine
end

section
/-! PROOFS. Which commands change a bit of `CW` (20_memory.md R35): nothing in the proof needs the bit to be one outside
the code. -/

namespace Sys2Proof.Machine

theorem bit_changed_by_completed {i : Instr} {s : State} {b : Nat}
    (h : (completed i s).cw.getLsbD b ≠ s.cw.getLsbD b) :
    (∃ imm, i = .ldw imm ∨ i = .dec imm ∨ i = .ins imm) ∨
      (∃ idx : BitIdx, (i = .setw idx ∨ i = .flpw idx) ∧ idx.toNat = b) ∨
      (i = .cor ∧ (syndrome s.cw).toNat = b ∧ b ≠ 0) := by
  cases i with
  | ldw imm => exact .inl ⟨imm, .inl rfl⟩
  | dec imm => exact .inl ⟨imm, .inr (.inl rfl)⟩
  | ins imm => exact .inl ⟨imm, .inr (.inr rfl)⟩
  | setw idx =>
    refine .inr (.inl ⟨idx, .inl rfl, ?_⟩)
    by_contra hne
    exact h (setBit_getLsbD_of_ne s.cw (wideIndex idx) (Ne.symm hne))
  | flpw idx =>
    refine .inr (.inl ⟨idx, .inr rfl, ?_⟩)
    by_contra hne
    exact h (flipBit_getLsbD_of_ne s.cw (wideIndex idx) (Ne.symm hne))
  | cor =>
    refine .inr (.inr ⟨rfl, ?_, ?_⟩)
    · by_contra hne
      refine h ((correct_getLsbD s.cw b).trans ?_)
      rw [decide_eq_false (Ne.symm hne), Bool.and_false, Bool.xor_false]
    · rintro rfl
      exact h (correct_getLsbD_zero s.cw)
  | _ => exact absurd rfl h

/-- Settles O46: a fault changes no bit, and a completion changes one in the three ways only. -/
theorem bitsOutsideTheCodeChangeInThreeWaysOnly : Obligations.BitsOutsideTheCodeChangeInThreeWaysOnly := by
  refine fun i s b _ => ⟨_, exec_eq_outcome i s, fun h => ?_⟩
  obtain ⟨f, ho⟩ | ⟨-, ho⟩ := outcome_cases i s <;> rw [ho] at h
  · exact absurd rfl h
  · exact bit_changed_by_completed h

end Sys2Proof.Machine
end

section
/-! PROOFS. The document's flow (44_interface_ops.md R101). -/

namespace Sys2Proof.Machine

/-- In `k` steps from `s` the block comes to `t`, and the host gets `responses` back. -/
def RunsTo (k : Nat) (s t : State) (responses : List Response) : Prop :=
  Sys2Proof.core.run k s = .next t ∧ responsesOf k s = responses

theorem RunsTo.zero (s : State) : RunsTo 0 s s [] := ⟨rfl, rfl⟩

/-- A presented command that completes is the first step of the run. -/
theorem RunsTo.command {k : Nat} {s t : State} {i : Instr} {rest : List HostInput} {responses : List Response}
    (hs : s.inputs = .command (encode i) :: rest) (hi : badIndex i = false) (hread : readsUnwritten i s = false)
    (hrun : RunsTo k (completed i { s with inputs := rest }) t responses) :
    RunsTo (k + 1) s t (⟨.ok, responseValue i { s with inputs := rest }⟩ :: responses) := by
  have hstep : step s = .next (completed i { s with inputs := rest }) :=
    (step_of_command hs (decode_encode i)).trans (exec_completes hi hread)
  exact ⟨(core_run_succ k hstep).trans hrun.1, (responsesOf_succ k hstep).trans (congrArg _ hrun.2)⟩

/-- Settles O56: `LDW` makes `CW` readable, so the other three commands complete; the last `EXT` reads the `CW` that
`COR` left. -/
theorem documentFlowEqualsDec : Obligations.DocumentFlowEqualsDec := by
  intro s raw rest hs
  obtain ⟨hrun, hresponses⟩ := RunsTo.command hs rfl rfl <| .command rfl rfl rfl <| .command rfl rfl rfl <|
    .command rfl rfl rfl <| .zero _
  exact ⟨_, _, hrun, rfl, exec_completes rfl rfl, ⟨rfl, rfl, rfl, rfl, rfl, rfl⟩, hresponses⟩

end Sys2Proof.Machine
end
